-- ==== Sys2Proof/Word.lean ====
section
/-! DEFINITION. The widths of the values the block handles (00_scope.md R6, R8). Every value is an unsigned bit vector. -/

namespace Sys2Proof

/-- A data byte: one `LB` register, one entry of `LUT`, one byte of the input or output stream (R8, R57). -/
abbrev Byte := BitVec 8

/-- A command word or a response word (R6: both are 16 bits). -/
abbrev Word := BitVec 16

/-- A word of the Word Sequence in which a host may hold a Device Scan Block (20_memory.md R56). -/
abbrev Word32 := BitVec 32

end Sys2Proof
end

