-- ==== Sys2Proof/Config.lean ====
section
/-! DEFINITION. The sizes of 00_scope.md R5. Each is fixed by the spec and none is a parameter; the spec leaves no value
open, so there is no free value here. -/

namespace Sys2Proof.Config

/-- `WIDTH`, pixels per line (R5). -/
def width : Nat := 48
/-- `HEIGHT`, lines per frame (R5). -/
def height : Nat := 32
/-- `LINE_BYTES`, content bytes per line (R5). -/
def lineBytes : Nat := 6
/-- `ROW_STRIDE`, bytes per row on the bitmap side (R5). -/
def rowStride : Nat := 8
/-- `PAD_BYTES`, zero padding bytes per row on the Direction A output (R5). -/
def padBytes : Nat := 2
/-- `BLOCK_BYTES`, bytes of a Device Scan Block (R5). -/
def blockBytes : Nat := 192
/-- `BLOCK_WORDS`, 32-bit words of a Device Scan Block (R5). -/
def blockWords : Nat := 48
/-- `OUT_A_BYTES`, bytes the block emits for one Direction A frame (R5). -/
def outABytes : Nat := 256
/-- `OUT_B_BYTES`, bytes the block emits for one Direction B frame (R5). -/
def outBBytes : Nat := 192
/-- `LUT_DEPTH`, entries of the mirror table (R5). -/
def lutDepth : Nat := 256
/-- `POL_MASK`, the polarity mask (R5). -/
def polMask : Byte := 0xFF#8

end Sys2Proof.Config
end

