-- ==== Sys2Proof/Syntax.lean ====
section
/-! DEFINITION. The commands of BRL-1 as terms: one constructor per row of spec/opcode_table.json. -/

namespace Sys2Proof

/-- The direction of a frame (10_state.md R25): Direction A is bit 0 (device to bitmap), Direction B is bit 1. -/
inductive Dir where
  | a
  | b
deriving DecidableEq, Repr

/-- The ten readable registers (10_state.md R36). -/
inductive RegName where
  | status | ln | wp | ocnt
  | lb0 | lb1 | lb2 | lb3 | lb4 | lb5
deriving DecidableEq, Repr

/-- The commands (30_encoding.md R71). `RD` is one command that the table gives as three rows, so it has three constructors
here, one for each block of register numbers (log entry 9). -/
inductive Instr where
  /-- `NOP` (R130). -/
  | nop
  /-- `START d, i`: direction `d`, `invert` flag `i` (R131). -/
  | start (d : Dir) (i : Bool)
  /-- `PUSH b` (R106). -/
  | push (b : Byte)
  /-- `EOL` (R107). -/
  | eol
  /-- `END` (R132). -/
  | endFrame
  /-- `RST` (R133). -/
  | rst
  /-- `RD r`, the row of register numbers 0x00 to 0x03: `STATUS`, `LN`, `WP`, `OCNT` (R150). -/
  | rdCtl (r : RegName)
  /-- `RD r`, the row of register numbers 0x10 to 0x13: `LB0` to `LB3` (R150). -/
  | rdLbLow (r : RegName)
  /-- `RD r`, the row of register numbers 0x14 and 0x15: `LB4`, `LB5` (R150). -/
  | rdLbHigh (r : RegName)
  /-- `MIR b` (R94). -/
  | mir (b : Byte)
deriving DecidableEq, Repr

/-- Why a word is reserved: the cases of 30_encoding.md R74, by name. All have the same effect (R157, R161). -/
inductive Reserved where
  /-- `Z` is not zero. -/
  | zNotZero
  /-- `OP` is 0x8 to 0xF. -/
  | opUndefined
  /-- A `NOP`, `EOL`, `END` or `RST` word whose `IMM` is not zero. -/
  | operandNotZero
  /-- A `START` word whose `IMM[7:2]` is not zero. -/
  | configNotZero
  /-- An `RD` word whose `IMM` is no defined register number. -/
  | noSuchRegister
deriving DecidableEq, Repr

/-- What a word decodes to: one of the eight commands or `RESERVED` (30_encoding.md R73). -/
inductive Decoded where
  | command (i : Instr)
  | reserved (why : Reserved)
deriving DecidableEq, Repr

end Sys2Proof
end

