-- ==== Sys2Proof/WellFormed.lean ====
section
/-! DEFINITION. Which terms of `Instr` stand for a command word. Only the `RD` rows need a check: each covers its own
register numbers and no others (spec/opcode_table.json; 30_encoding.md R71). -/

namespace Sys2Proof

/-- The registers of the row `match 0x6000 mask 0xFFFC`: 0x00 to 0x03. -/
def RegName.isControl : RegName → Bool
  | .status | .ln | .wp | .ocnt => true
  | .lb0 | .lb1 | .lb2 | .lb3 | .lb4 | .lb5 => false

/-- The registers of the row `match 0x6010 mask 0xFFFC`: 0x10 to 0x13. -/
def RegName.isLineLow : RegName → Bool
  | .lb0 | .lb1 | .lb2 | .lb3 => true
  | .status | .ln | .wp | .ocnt | .lb4 | .lb5 => false

/-- The registers of the row `match 0x6014 mask 0xFFFE`: 0x14 and 0x15. -/
def RegName.isLineHigh : RegName → Bool
  | .lb4 | .lb5 => true
  | .status | .ln | .wp | .ocnt | .lb0 | .lb1 | .lb2 | .lb3 => false

/-- An `RD` term is well formed when its register belongs to its row; every other term is well formed: a data byte may have
any value, a direction and an `invert` flag are single bits (30_encoding.md R72). -/
def Instr.wf : Instr → Bool
  | .nop => true
  | .start _ _ => true
  | .push _ => true
  | .eol => true
  | .endFrame => true
  | .rst => true
  | .rdCtl r => r.isControl
  | .rdLbLow r => r.isLineLow
  | .rdLbHigh r => r.isLineHigh
  | .mir _ => true

end Sys2Proof
end

