-- ==== Sys2Proof/Decode.lean ====
section
/-! DEFINITION. Decoding (30_encoding.md R70, R72, R73, R74), total on all 65536 words, and the encoder beside it. Decoding
reads no state (R73, R76). -/

namespace Sys2Proof

/-- `OP = c[15:12]` (R70). -/
def opField (c : Word) : BitVec 4 := c.extractLsb' 12 4

/-- `Z = c[11:8]` (R70). -/
def zField (c : Word) : BitVec 4 := c.extractLsb' 8 4

/-- `IMM = c[7:0]` (R70). -/
def immField (c : Word) : Byte := c.extractLsb' 0 8

/-- The word with these fields (R70). -/
def wordOf (op z : BitVec 4) (imm : Byte) : Word := op ++ z ++ imm

/-- The direction that operand bit 0 of `START` names (R72; 10_state.md R25). -/
def dirOfBit : Bool → Dir
  | false => .a
  | true => .b

/-- The bit that stands for a direction (10_state.md R25). -/
def dirBit : Dir → Bool
  | .a => false
  | .b => true

/-- The number of a register (10_state.md R36). -/
def regNumber : RegName → Byte
  | .status => 0x00#8
  | .ln => 0x01#8
  | .wp => 0x02#8
  | .ocnt => 0x03#8
  | .lb0 => 0x10#8
  | .lb1 => 0x11#8
  | .lb2 => 0x12#8
  | .lb3 => 0x13#8
  | .lb4 => 0x14#8
  | .lb5 => 0x15#8

/-- The `RD` command that a register number names, or that it names no register: 0x04 to 0x0F and 0x16 to 0xFF do not
(10_state.md R36). -/
def decodeRegister (n : Byte) : Decoded :=
  if n = 0x00#8 then .command (.rdCtl .status)
  else if n = 0x01#8 then .command (.rdCtl .ln)
  else if n = 0x02#8 then .command (.rdCtl .wp)
  else if n = 0x03#8 then .command (.rdCtl .ocnt)
  else if n = 0x10#8 then .command (.rdLbLow .lb0)
  else if n = 0x11#8 then .command (.rdLbLow .lb1)
  else if n = 0x12#8 then .command (.rdLbLow .lb2)
  else if n = 0x13#8 then .command (.rdLbLow .lb3)
  else if n = 0x14#8 then .command (.rdLbHigh .lb4)
  else if n = 0x15#8 then .command (.rdLbHigh .lb5)
  else .reserved .noSuchRegister

/-- A command of form N: defined only with `IMM = 0x00` (R72). -/
def decodePlain (imm : Byte) (i : Instr) : Decoded :=
  if imm = 0x00#8 then .command i else .reserved .operandNotZero

/-- A command of form C: defined only with `IMM[7:2] = 0`; `IMM[0]` is the direction, `IMM[1]` the `invert` flag (R72). -/
def decodeStart (imm : Byte) : Decoded :=
  if imm.extractLsb' 2 6 = 0#6 then .command (.start (dirOfBit (imm.getLsbD 0)) (imm.getLsbD 1))
  else .reserved .configNotZero

/-- `decode`, test by test as R73 writes it. -/
def decode (c : Word) : Decoded :=
  if zField c ≠ 0x0#4 then .reserved .zNotZero
  else if opField c = 0x0#4 then decodePlain (immField c) .nop
  else if opField c = 0x1#4 then decodeStart (immField c)
  else if opField c = 0x2#4 then .command (.push (immField c))
  else if opField c = 0x3#4 then decodePlain (immField c) .eol
  else if opField c = 0x4#4 then decodePlain (immField c) .endFrame
  else if opField c = 0x5#4 then decodePlain (immField c) .rst
  else if opField c = 0x6#4 then decodeRegister (immField c)
  else if opField c = 0x7#4 then .command (.mir (immField c))
  else .reserved .opUndefined

/-- The operand byte of `START d, i`: `d + 2*i` (30_encoding.md R77). -/
def startOperand (d : Dir) (i : Bool) : Byte := 0#6 ++ BitVec.ofBool i ++ BitVec.ofBool (dirBit d)

/-- The word of a command (30_encoding.md R71, R77). -/
def encode : Instr → Word
  | .nop => wordOf 0x0#4 0x0#4 0x00#8
  | .start d i => wordOf 0x1#4 0x0#4 (startOperand d i)
  | .push b => wordOf 0x2#4 0x0#4 b
  | .eol => wordOf 0x3#4 0x0#4 0x00#8
  | .endFrame => wordOf 0x4#4 0x0#4 0x00#8
  | .rst => wordOf 0x5#4 0x0#4 0x00#8
  | .rdCtl r => wordOf 0x6#4 0x0#4 (regNumber r)
  | .rdLbLow r => wordOf 0x6#4 0x0#4 (regNumber r)
  | .rdLbHigh r => wordOf 0x6#4 0x0#4 (regNumber r)
  | .mir b => wordOf 0x7#4 0x0#4 b

/-- The bits that a command's table row fixes, and their value: `(match, mask)` of 30_encoding.md R71 and
spec/opcode_table.json. -/
def rowPattern : Instr → Word × Word
  | .nop => (0x0000#16, 0xFFFF#16)
  | .start _ _ => (0x1000#16, 0xFFFC#16)
  | .push _ => (0x2000#16, 0xFF00#16)
  | .eol => (0x3000#16, 0xFFFF#16)
  | .endFrame => (0x4000#16, 0xFFFF#16)
  | .rst => (0x5000#16, 0xFFFF#16)
  | .rdCtl _ => (0x6000#16, 0xFFFC#16)
  | .rdLbLow _ => (0x6010#16, 0xFFFC#16)
  | .rdLbHigh _ => (0x6014#16, 0xFFFE#16)
  | .mir _ => (0x7000#16, 0xFF00#16)

/-- The command word made of the low `nbits` bits of `w`, every other bit 0. A command is one whole 16-bit word on the command
port, stored nowhere, so there is no byte order to lay it out in (R70; 20_memory.md R57; log entry 13). -/
def tableWord (nbits w : Nat) : Word := BitVec.ofNat 16 (w % 2 ^ nbits)

/-- The command that `decode` reads from the instruction whose bits are `w`. -/
def decodeTableWord (nbits w : Nat) : Option Instr :=
  match decode (tableWord nbits w) with
  | .command i => some i
  | .reserved _ => none

end Sys2Proof
end

