-- ==== Sys2Proof/Machine/State.lean ====
section
/-! DEFINITION. The machine's state: the record S of 10_state.md R20, field for field, and the block's two ports as data. -/

namespace Sys2Proof.Machine

/-- `PH`, the phase (10_state.md R28). Three values: 93_implementation_defined.md U3 (log entry 5). -/
inductive Phase where
  /-- No frame is open. -/
  | idle
  /-- A frame is open. -/
  | run
  /-- An error has been taken. -/
  | fault
deriving DecidableEq, Repr

/-- `ERR`, the error code (10_state.md R30; 60_exceptions.md R155). Four values: 93_implementation_defined.md U4
(log entry 5). -/
inductive ErrCode where
  /-- Code 0, no error. -/
  | none
  /-- Code 1, `E_LEN`: the Device Scan Block of a Direction A frame is not exactly 192 bytes (R156). -/
  | eLen
  /-- Code 2, `E_ILL`: a reserved command word (R157). -/
  | eIll
  /-- Code 3, `E_SEQ`: a command not permitted in the present phase or direction (R158). -/
  | eSeq
deriving DecidableEq, Repr

/-- What the host presents to the block between two steps (92_eei_decisions.md D2): a command word on the command port, or a
pulse of hardware reset (70_reset_and_hazards.md R175). -/
inductive PortEvent where
  | command (w : Word)
  | reset
deriving DecidableEq, Repr

/-- The whole state. The first nine fields are S of 10_state.md R20 and no others; `input` and `resp` are the model's own:
the ports through which a step receives its command word and gives its response (30_encoding.md R80; log entries 1 and 2). -/
structure State where
  /-- `PH` (R28). -/
  ph : Phase
  /-- `DIR` (R25). -/
  dir : Dir
  /-- `INV`, the `invert` flag: `false` means that every byte is XORed with 0xFF (R26). -/
  inv : Bool
  /-- `DONE` (R29). -/
  done : Bool
  /-- `ERR` (R30). -/
  err : ErrCode
  /-- `WP`, 0 to 6 (R23). -/
  wp : Fin 7
  /-- `LN`, 0 to 32 (R24). -/
  ln : Fin 33
  /-- `LB[0]` to `LB[5]` (R22). -/
  lb : Vector Byte 6
  /-- `OUT`, oldest byte first (R31). -/
  out : List Byte
  /-- The events the host will present, next first. -/
  input : List PortEvent
  /-- The response of the command the last step executed; `none` if it executed none (R79: not held afterwards). -/
  resp : Option Word
deriving DecidableEq, Repr

/-- A line buffer of zeros (R35). -/
def clearedLine : Vector Byte 6 := #v[0x00#8, 0x00#8, 0x00#8, 0x00#8, 0x00#8, 0x00#8]

/-- The machine right after hardware reset (10_state.md R35), the host having presented nothing yet. -/
def State.reset : State where
  ph := .idle
  dir := .a
  inv := false
  done := false
  err := .none
  wp := 0
  ln := 0
  lb := clearedLine
  out := []
  input := []
  resp := none

/-- Why the machine stops: it never does. The step is total (10_state.md R20), and an error of the block is a next state
(60_exceptions.md R160), so there is no fault. -/
inductive Fault
deriving DecidableEq, Repr

/-- Why the model gives an instruction no meaning. -/
inductive Refusal where
  /-- Raised by an arm of `exec` that has no meaning yet. No arm is left so. Safe. -/
  | notModelled (mnemonic : String)
deriving DecidableEq, Repr

/-- The outcome of one step of this machine. -/
abbrev StepOutcome := Host.Outcome State Fault Refusal

end Sys2Proof.Machine
end

