-- ==== Sys2Proof/Machine/Flags.lean ====
section
/-! DEFINITION. The views of the control state: the status word, the wires, and which command the present phase permits. There
are no arithmetic condition codes (10_state.md section 5). -/

namespace Sys2Proof.Machine

/-- The two bits of `PH` (10_state.md R28). -/
def phaseBits : Phase → BitVec 2
  | .idle => 0#2
  | .run => 1#2
  | .fault => 2#2

/-- The three bits of `ERR` (60_exceptions.md R155). -/
def errBits : ErrCode → BitVec 3
  | .none => 0#3
  | .eLen => 1#3
  | .eIll => 2#3
  | .eSeq => 3#3

/-- The bit of `DIR` (10_state.md R25). -/
def dirField (s : State) : BitVec 1 := BitVec.ofBool (dirBit s.dir)

/-- `STATUS = zext_16({ERR, INV, DIR, DONE, PH})` (10_state.md R32). -/
def status (s : State) : Word :=
  (errBits s.err ++ BitVec.ofBool s.inv ++ dirField s ++ BitVec.ofBool s.done ++ phaseBits s.ph).setWidth 16

/-- The level output `done = DONE` (10_state.md R33). -/
def doneWire (s : State) : Bool := s.done

/-- The level output `err = (ERR != 0)` (10_state.md R33). -/
def errWire (s : State) : Bool := errBits s.err != 0#3

/-- `OCNT`, the 9-bit length of `OUT` (10_state.md R36; 41_line_datapath.md R112; log entry 8). -/
def ocnt (s : State) : BitVec 9 := BitVec.ofNat 9 s.out.length

/-- `permitted(d, S)` (60_exceptions.md R158). -/
def permitted (i : Instr) (s : State) : Bool :=
  match i with
  | .nop => true
  | .start _ _ => s.ph == .idle
  | .push _ => s.ph == .run
  | .eol => s.ph == .run && s.dir == .b
  | .endFrame => s.ph == .run
  | .rst => true
  | .rdCtl _ => true
  | .rdLbLow _ => true
  | .rdLbHigh _ => true
  | .mir _ => true

end Sys2Proof.Machine
end

