-- ==== Sys2Proof/Machine/Ops.lean ====
section
/-! DEFINITION. The operations the commands share: the response, the output record, the line buffer, the completion of a line,
taking an error, and the return from one. -/

namespace Sys2Proof.Machine

/-! ### The response (30_encoding.md R79) -/

/-- `resp <- v`. -/
def respond (v : Word) (s : State) : State := { s with resp := some v }

/-- `resp <- STATUS`, computed from the state after the command (R79). -/
def respondStatus (s : State) : State := respond (status s) s

/-! ### Output (10_state.md R31) -/

/-- `emit(b)` for each byte of a list, in order: `OUT <- OUT ++ bs` (R31; 20_memory.md R58). -/
def emit (bs : List Byte) (s : State) : State := { s with out := s.out ++ bs }

/-! ### The line buffer and the counters (10_state.md R22, R23, R24) -/

/-- `WP + 1`, "capped at 6" (R23). The spec computes it only when `WP <= 5` (41_line_datapath.md R112; log entries 6 and 7). -/
def nextWp (wp : Fin 7) : Fin 7 := ⟨min (wp.val + 1) 6, by omega⟩

/-- `LN + 1`, "never incremented past 32" (R24); only computed when `LN <= 31` (41_line_datapath.md R112; log entry 7). -/
def nextLn (ln : Fin 33) : Fin 33 := ⟨min (ln.val + 1) 32, by omega⟩

/-- `LB[WP] <- b; WP <- WP + 1` (41_line_datapath.md R106, R113). `LB[6]` does not exist (10_state.md R22), so with `WP = 6`
there is no register to write and `WP` stays at its cap (log entry 6). -/
def storeByte (b : Byte) (s : State) : State :=
  { s with lb := if h : s.wp.val < 6 then s.lb.set s.wp.val b h else s.lb, wp := nextWp s.wp }

/-- `LB[0..5] <- 0x00; WP <- 0; LN <- LN + 1`, the end of a line completion (41_line_datapath.md R110, R111). -/
def closeLine (s : State) : State := { s with lb := clearedLine, wp := 0, ln := nextLn s.ln }

/-! ### Line completion -/

/-- `LUT[LB[i]] ^ PM(INV)`, the content byte of `completeLineA` read from position `i` (41_line_datapath.md R110). -/
def contentA (s : State) (i : Fin 6) : Byte := lutRead s.lb[i] ^^^ polarityMask s.inv

/-- `LUT[LB[i] ^ PM(INV)]`, the content byte of `completeLineB` read from position `i` (41_line_datapath.md R111). -/
def contentB (s : State) (i : Fin 6) : Byte := lutRead (s.lb[i] ^^^ polarityMask s.inv)

/-- `completeLineA` (41_line_datapath.md R110): the line buffer from its last position to its first, then two zero bytes. -/
def completeLineA (s : State) : State :=
  closeLine
    (emit [contentA s 5, contentA s 4, contentA s 3, contentA s 2, contentA s 1, contentA s 0, 0x00#8, 0x00#8] s)

/-- `completeLineB` (41_line_datapath.md R111): the line buffer from its last position to its first. -/
def completeLineB (s : State) : State :=
  closeLine (emit [contentB s 5, contentB s 4, contentB s 3, contentB s 2, contentB s 1, contentB s 0] s)

/-- `completeLineB` `n` times: the loop of `END`, which runs `32 - LN` times, at most 32 (42_frame_control.md R132;
70_reset_and_hazards.md R186). -/
def completeLinesB : Nat → State → State
  | 0, s => s
  | n + 1, s => completeLinesB n (completeLineB s)

/-! ### Frames (42_frame_control.md R131, R132) -/

/-- What `START` writes (R131). `ERR` is not written. -/
def openFrame (d : Dir) (i : Bool) (s : State) : State :=
  { s with dir := d, inv := i, lb := clearedLine, wp := 0, ln := 0, done := false, out := [], ph := .run }

/-- `DONE <- 1; PH <- IDLE`, the successful end of a frame (R132). -/
def finishFrame (s : State) : State := { s with done := true, ph := .idle }

/-! ### Errors (60_exceptions.md) -/

/-- `raise Error(code)` (R160): `ERR`, `PH` and `DONE` are written and nothing else. -/
def raiseError (code : ErrCode) (s : State) : State := { s with err := code, ph := .fault, done := false }

/-- The return from an error, and the effect of hardware reset and of `RST` alike (R162; 10_state.md R35;
70_reset_and_hazards.md R178): every field of the block at its reset value. What the host will present next is no field of
the block and stays (10_state.md R39; log entry 4). -/
def toReset (s : State) : State := { State.reset with input := s.input }

/-- A reserved word: `E_ILL` in `IDLE` and `RUN`, ignored in `FAULT` (R157, R161). -/
def takeReserved (s : State) : State :=
  match s.ph with
  | .fault => respondStatus s
  | .idle | .run => respondStatus (raiseError .eIll s)

/-- The tests a command passes before it executes, in the order of 30_encoding.md R80: in `FAULT` it is ignored (R161); not
permitted, it raises `E_SEQ` (R158). -/
def guarded (i : Instr) (s : State) (executed : StepOutcome) : StepOutcome :=
  match s.ph with
  | .fault => .next (respondStatus s)
  | .idle | .run => if permitted i s then executed else .next (respondStatus (raiseError .eSeq s))

end Sys2Proof.Machine
end

