-- ==== Sys2Proof/Machine/FrameControl.lean ====
section
/-! DEFINITION. `NOP`, `START`, `END` and `RST` (42_frame_control.md R130 to R133). -/

namespace Sys2Proof.Machine

/-- `NOP`: only the response, `STATUS` (R130). -/
def execNop (s : State) : StepOutcome := .next (respondStatus s)

/-- `START d, i` (R131). -/
def execStart (d : Dir) (i : Bool) (s : State) : StepOutcome :=
  guarded (.start d i) s (.next (respondStatus (openFrame d i s)))

/-- `END` in an open Direction A frame (R132): success at exactly 192 accepted bytes, otherwise `E_LEN`. -/
def endA (s : State) : State :=
  if s.ln = 32 ∧ s.wp = 0 then finishFrame s else raiseError .eLen s

/-- The row left open when `END` comes is closed as if by `EOL` (R132). -/
def closeOpenRow (s : State) : State :=
  if s.ln.val < 32 ∧ s.wp ≠ 0 then completeLineB s else s

/-- `END` in an open Direction B frame (R132): the open row, then padding lines up to 32. -/
def endB (s : State) : State :=
  finishFrame (completeLinesB (32 - (closeOpenRow s).ln.val) (closeOpenRow s))

/-- `END` in an open frame (R132). -/
def endOpen (s : State) : State :=
  match s.dir with
  | .a => endA s
  | .b => endB s

/-- `END` (R132). -/
def execEnd (s : State) : StepOutcome := guarded .endFrame s (.next (respondStatus (endOpen s)))

/-- `RST`: the reset state, in every phase; response 0x0000 (R133). -/
def execRst (s : State) : StepOutcome := .next (respondStatus (toReset s))

end Sys2Proof.Machine
end

