-- ==== Sys2Proof/Machine/LineDatapath.lean ====
section
/-! DEFINITION. `PUSH` and `EOL` (41_line_datapath.md R106, R107). -/

namespace Sys2Proof.Machine

/-- The line is completed once it holds six bytes: `if WP == 6: completeLineA()` (R106). -/
def completeIfFull (s : State) : State := if s.wp = 6 then completeLineA s else s

/-- `PUSH` in an open Direction A frame (R106): a 193rd byte raises `E_LEN`; the sixth byte of a line completes it. -/
def pushA (b : Byte) (s : State) : State :=
  if s.ln = 32 then raiseError .eLen s else completeIfFull (storeByte b s)

/-- `PUSH` in an open Direction B frame (R106): bytes beyond the 32nd row and beyond the sixth byte of a row are dropped. -/
def pushB (b : Byte) (s : State) : State :=
  if s.ln = 32 then s else if s.wp = 6 then s else storeByte b s

/-- `PUSH` in an open frame (R106). -/
def pushOpen (b : Byte) (s : State) : State :=
  match s.dir with
  | .a => pushA b s
  | .b => pushB b s

/-- `PUSH b` (R106). -/
def execPush (b : Byte) (s : State) : StepOutcome := guarded (.push b) s (.next (respondStatus (pushOpen b s)))

/-- `EOL` (R107): completes the row, or changes nothing once 32 lines are complete. -/
def execEol (s : State) : StepOutcome :=
  guarded .eol s (.next (respondStatus (if s.ln = 32 then s else completeLineB s)))

end Sys2Proof.Machine
end

