-- ==== Sys2Proof/Machine/Mirror.lean ====
section
/-! DEFINITION. `MIR` (40_byte_mirror.md). -/

namespace Sys2Proof.Machine

/-- `MIR b`: `resp <- zext_16(LUT[b])` in every phase; no state of the block is touched (R94). -/
def execMir (b : Byte) (s : State) : StepOutcome := .next (respond ((lutRead b).setWidth 16) s)

end Sys2Proof.Machine
end

