-- ==== Sys2Proof/Machine/StatusRead.lean ====
section
/-! DEFINITION. `RD` (43_status_read.md R150), one meaning for each row of the table. `RD` is carried out in every phase, reads
without side effect and raises nothing. -/

namespace Sys2Proof.Machine

/-- `RD STATUS`, `RD LN`, `RD WP`, `RD OCNT` (R150). -/
def execRdCtl (r : RegName) (s : State) : StepOutcome := .next (respond (readReg s r) s)

/-- `RD LB0` to `RD LB3` (R150). -/
def execRdLbLow (r : RegName) (s : State) : StepOutcome := .next (respond (readReg s r) s)

/-- `RD LB4`, `RD LB5` (R150). -/
def execRdLbHigh (r : RegName) (s : State) : StepOutcome := .next (respond (readReg s r) s)

end Sys2Proof.Machine
end

