-- ==== Sys2Proof/Machine/Dispatch.lean ====
section
/-! DEFINITION. The meaning of every command: one arm per constructor of Instr. -/

namespace Sys2Proof.Machine

/-- Carries out one decoded command. -/
def exec (i : Instr) (s : State) : Host.Outcome State Fault Refusal :=
  match i with
  | .nop => Sys2Proof.Machine.execNop s
  | .start d v => Sys2Proof.Machine.execStart d v s
  | .push b => Sys2Proof.Machine.execPush b s
  | .eol => Sys2Proof.Machine.execEol s
  | .endFrame => Sys2Proof.Machine.execEnd s
  | .rst => Sys2Proof.Machine.execRst s
  | .rdCtl r => Sys2Proof.Machine.execRdCtl r s
  | .rdLbLow r => Sys2Proof.Machine.execRdLbLow r s
  | .rdLbHigh r => Sys2Proof.Machine.execRdLbHigh r s
  | .mir b => Sys2Proof.Machine.execMir b s

end Sys2Proof.Machine
end

