-- ==== Sys2Proof/Machine/Port.lean ====
section
/-! DEFINITION. What the block takes from its ports in one step (92_eei_decisions.md D2; 70_reset_and_hazards.md R175). -/

namespace Sys2Proof.Machine

/-- The host presents nothing: the block waits (10_state.md R35), its state unchanged, and the response of the last command is
not held (30_encoding.md R79; log entry 3). -/
def awaitCommand (s : State) : State := { s with resp := none }

/-- The state with the next event taken from the ports. -/
def takeEvent (s : State) : State := { s with input := s.input.tail }

/-- The state in which the host presents these events before whatever it presents otherwise. -/
def present (evs : List PortEvent) (s : State) : State := { s with input := evs ++ s.input }

/-- The events by which a host issues these words, in order. -/
def commandEvents (ws : List Word) : List PortEvent := ws.map PortEvent.command

end Sys2Proof.Machine
end

