-- ==== Sys2Proof/Machine/Step.lean ====
section
/-! DEFINITION. One step: the next event at the ports is taken and carried out whole (30_encoding.md R80; 20_memory.md R58). -/

namespace Sys2Proof.Machine

/-- One step (30_encoding.md R80). A command word is decoded and executed, a reserved word takes `E_ILL` or is ignored, a
reset pulse gives the reset state; with nothing presented the block waits. -/
def step (s : State) : Host.Outcome State Fault Refusal :=
  match s.input with
  | [] => .next (awaitCommand s)
  | .reset :: _ => .next (toReset (takeEvent s))
  | .command w :: _ =>
    match decode w with
    | .command i => exec i (takeEvent s)
    | .reserved _ => .next (takeReserved (takeEvent s))

/-- The state in which the host presents the word of the low `nbits` bits of `w` next (log entry 12). -/
def State.withFetchWord (s : State) (nbits w : Nat) : State := present [.command (tableWord nbits w)] s

end Sys2Proof.Machine
end

