-- ==== Sys2Proof/Machine/Codec.lean ====
section
/-! DEFINITION. The spec's pure functions on whole lines, rows, blocks and images (41_line_datapath.md, 42_frame_control.md,
20_memory.md). The commands are stated to compute them; no command calls them. -/

namespace Sys2Proof.Machine

/-! ### One line -/

/-- `core(X, inv)[j] = rev8(X[5-j]) ^ PM(inv)` (41_line_datapath.md R103). -/
def lineCore (X : Vector Byte 6) (inv : Bool) : Vector Byte 6 :=
  #v[rev8 X[5] ^^^ polarityMask inv, rev8 X[4] ^^^ polarityMask inv, rev8 X[3] ^^^ polarityMask inv,
    rev8 X[2] ^^^ polarityMask inv, rev8 X[1] ^^^ polarityMask inv, rev8 X[0] ^^^ polarityMask inv]

/-- `lineA(L, inv)`: a device line to a bitmap row of 8 bytes, the last two 0x00 whatever `inv` is (41_line_datapath.md R101;
90_conflicts.md C2). -/
def lineA (L : Vector Byte 6) (inv : Bool) : Vector Byte 8 :=
  #v[rev8 L[5] ^^^ polarityMask inv, rev8 L[4] ^^^ polarityMask inv, rev8 L[3] ^^^ polarityMask inv,
    rev8 L[2] ^^^ polarityMask inv, rev8 L[1] ^^^ polarityMask inv, rev8 L[0] ^^^ polarityMask inv, 0x00#8, 0x00#8]

/-- `lineB(R6, inv)`: a fitted bitmap row to a device line, the mask applied before the mirror (41_line_datapath.md R102). -/
def lineB (R6 : Vector Byte 6) (inv : Bool) : Vector Byte 6 :=
  #v[rev8 (R6[5] ^^^ polarityMask inv), rev8 (R6[4] ^^^ polarityMask inv), rev8 (R6[3] ^^^ polarityMask inv),
    rev8 (R6[2] ^^^ polarityMask inv), rev8 (R6[1] ^^^ polarityMask inv), rev8 (R6[0] ^^^ polarityMask inv)]

/-- `fit6(R)`: the first six bytes of a row, 0x00 where it has none (41_line_datapath.md R105). -/
def fit6 (R : List Byte) : Vector Byte 6 :=
  #v[R.getD 0 0x00#8, R.getD 1 0x00#8, R.getD 2 0x00#8, R.getD 3 0x00#8, R.getD 4 0x00#8, R.getD 5 0x00#8]

/-- The six content bytes of a stored row (00_scope.md glossary "content bytes"): `lineA(L, inv)[0..5]` of R108. -/
def contentBytes (row : Vector Byte 8) : Vector Byte 6 := #v[row[0], row[1], row[2], row[3], row[4], row[5]]

/-- The 48 bits of a line, bit `8*i + k` being bit `k` of byte `i` (41_line_datapath.md R104). -/
def lineBits (X : Vector Byte 6) : BitVec 48 := X[5] ++ X[4] ++ X[3] ++ X[2] ++ X[1] ++ X[0]

/-! ### Whole blocks and images -/

/-- Line `l` of a Device Scan Block: bytes `6l` to `6l+5` (20_memory.md R63). -/
def deviceLine (D : List Byte) (l : Nat) : Vector Byte 6 := fit6 (D.drop (Config.lineBytes * l))

/-- `decodeBlock(D, inv)`, Direction A on a whole block of exactly 192 bytes, undefined on any other length
(42_frame_control.md R135; log entry 14). -/
def decodeBlock (D : List Byte) (inv : Bool) : Option (List Byte) :=
  if D.length = Config.blockBytes then
    some ((List.range Config.height).flatMap fun l => (lineA (deviceLine D l) inv).toList)
  else none

/-- `Rs32`: the first 32 rows, then empty rows up to 32 (42_frame_control.md R136). -/
def rows32 (Rs : List (List Byte)) : List (List Byte) :=
  Rs.take Config.height ++ List.replicate (Config.height - min Rs.length Config.height) []

/-- `encodeRows(Rs, inv)`, Direction B on a whole image (42_frame_control.md R136). -/
def encodeRows (Rs : List (List Byte)) (inv : Bool) : List Byte :=
  (rows32 Rs).flatMap fun R => (lineB (fit6 R) inv).toList

/-- `rows(B)`: 256 bytes cut into 32 rows of 8 (42_frame_control.md R139; 20_memory.md R64). -/
def rows (B : List Byte) : List (List Byte) :=
  (List.range Config.height).map fun r => (B.drop (Config.rowStride * r)).take Config.rowStride

/-! ### The word view of a Device Scan Block (20_memory.md R56) -/

/-- The four bytes a word stands for, most significant first (R56). -/
def wordBytes (w : Word32) : List Byte :=
  [w.extractLsb' 24 8, w.extractLsb' 16 8, w.extractLsb' 8 8, w.extractLsb' 0 8]

/-- `W[n] = (D[4n], D[4n+1], D[4n+2], D[4n+3])` for each whole group of four bytes (R56). -/
def wordsOfBytes : List Byte → List Word32
  | b0 :: b1 :: b2 :: b3 :: rest => (b0 ++ b1 ++ b2 ++ b3) :: wordsOfBytes rest
  | _ => []

/-- The big-endian serialisation of a sequence of words (R56). -/
def bytesOfWords (ws : List Word32) : List Byte := ws.flatMap wordBytes

end Sys2Proof.Machine
end

