-- ==== Sys2Proof/Machine/Assembler.lean ====
section
/-! DEFINITION. The pseudo-commands (30_encoding.md R78) and the assembler syntax (R77). -/

namespace Sys2Proof.Machine

/-! ### Pseudo-commands (R78) -/

/-- `PUSHW w`: four `PUSH`, most significant byte first. -/
def pushWord (w : Word32) : List Instr := (wordBytes w).map Instr.push

/-- `PUSHL b0, ..., b5`: one device line. -/
def pushLine (L : Vector Byte 6) : List Instr := L.toList.map Instr.push

/-- `PUSHR b0, ..., b(n-1)`: one bitmap row, closed by `EOL`. -/
def pushRow (R : List Byte) : List Instr := R.map Instr.push ++ [.eol]

/-- `DECODE i, D`. -/
def decodeSequence (i : Bool) (D : List Byte) : List Instr := .start .a i :: (D.map Instr.push ++ [.endFrame])

/-- `ENCODE i, R`. -/
def encodeSequence (i : Bool) (Rs : List (List Byte)) : List Instr := .start .b i :: (Rs.flatMap pushRow ++ [.endFrame])

/-! ### Text (R77): one command per line, `;` starts a comment (log entry 17) -/

/-- A blank character. -/
def isBlank (c : Char) : Bool := c = ' ' || c = '\t'

/-- A text without the blanks at its two ends. -/
def trimBlanks (cs : List Char) : List Char := ((cs.dropWhile isBlank).reverse.dropWhile isBlank).reverse

/-- A text cut at each comma. -/
def splitAtCommas : List Char → List (List Char)
  | [] => [[]]
  | c :: cs =>
    match splitAtCommas cs with
    | [] => [[c]]
    | field :: fields => if c = ',' then [] :: field :: fields else (c :: field) :: fields

/-- The value of a digit in a base up to 16. -/
def digitValue (base : Nat) (c : Char) : Option Nat :=
  let v := if c.isDigit then c.toNat - 48
    else if 97 ≤ c.toNat ∧ c.toNat ≤ 102 then c.toNat - 87
    else if 65 ≤ c.toNat ∧ c.toNat ≤ 70 then c.toNat - 55
    else 16
  if v < base then some v else none

/-- The value of a run of digits, most significant first, after a value read so far. -/
def digitsValue (base : Nat) : Nat → List Char → Option Nat
  | acc, [] => some acc
  | acc, c :: cs =>
    match digitValue base c with
    | some v => digitsValue base (base * acc + v) cs
    | none => none

/-- A number, decimal or `0x` hexadecimal (R77). -/
def numberOperand : List Char → Option Nat
  | [] => none
  | '0' :: 'x' :: c :: cs => digitsValue 16 0 (c :: cs)
  | c :: cs => digitsValue 10 0 (c :: cs)

/-- A number below a bound. -/
def boundedOperand (bound : Nat) (t : List Char) : Option Nat :=
  match numberOperand t with
  | some n => if n < bound then some n else none
  | none => none

/-- A byte operand, 0 to 255. -/
def byteOperand (t : List Char) : Option Byte := (boundedOperand 256 t).map (BitVec.ofNat 8)

/-- The direction operand of `START`: `A` or 0, `B` or 1. -/
def dirOperand (t : List Char) : Option Dir :=
  if t = ['A'] then some .a
  else if t = ['B'] then some .b
  else (boundedOperand 2 t).map fun n => dirOfBit (n == 1)

/-- The `invert` operand of `START`: 0 or 1. -/
def invOperand (t : List Char) : Option Bool := (boundedOperand 2 t).map fun n => n == 1

/-- The names and numbers of the registers, in the order of R77. -/
def registerNames : List (List Char × RegName) :=
  [("STATUS".toList, .status), ("LN".toList, .ln), ("WP".toList, .wp), ("OCNT".toList, .ocnt), ("LB0".toList, .lb0),
    ("LB1".toList, .lb1), ("LB2".toList, .lb2), ("LB3".toList, .lb3), ("LB4".toList, .lb4), ("LB5".toList, .lb5)]

/-- The register operand of `RD`: a name, or the number of a defined register. -/
def registerOperand (t : List Char) : Option Instr :=
  let number := match registerNames.find? (fun p => p.1 == t) with
    | some p => some (regNumber p.2)
    | none => byteOperand t
  match number with
  | none => none
  | some n =>
    match decodeRegister n with
    | .command i => some i
    | .reserved _ => none

/-- Each operand read as a byte. -/
def byteOperands : List (List Char) → Option (List Byte)
  | [] => some []
  | t :: ts =>
    match byteOperand t, byteOperands ts with
    | some b, some bs => some (b :: bs)
    | _, _ => none

/-- The words that a mnemonic with its operands stands for: the eight commands and `.word` (R77), and those pseudo-commands
whose operands are numbers (R78). -/
def assembleFields (m : List Char) (ops : List (List Char)) : Option (List Word) :=
  match String.ofList m, ops with
  | "NOP", [] => some [encode .nop]
  | "START", [d, i] =>
    match dirOperand d, invOperand i with
    | some d, some i => some [encode (.start d i)]
    | _, _ => none
  | "PUSH", [b] => (byteOperand b).map fun b => [encode (.push b)]
  | "EOL", [] => some [encode .eol]
  | "END", [] => some [encode .endFrame]
  | "RST", [] => some [encode .rst]
  | "RD", [r] => (registerOperand r).map fun i => [encode i]
  | "MIR", [b] => (byteOperand b).map fun b => [encode (.mir b)]
  | ".word", [w] => (boundedOperand 65536 w).map fun n => [BitVec.ofNat 16 n]
  | "PUSHW", [w] => (boundedOperand (2 ^ 32) w).map fun n => (pushWord (BitVec.ofNat 32 n)).map encode
  | "PUSHL", [b0, b1, b2, b3, b4, b5] =>
    (byteOperands [b0, b1, b2, b3, b4, b5]).map fun bs => (pushLine (fit6 bs)).map encode
  | "PUSHR", bs => (byteOperands bs).map fun bs => (pushRow bs).map encode
  | _, _ => none

/-- The words of one line of assembler; `none` where the line is not of R77. A line of comment alone stands for no word. -/
def assembleLine (line : List Char) : Option (List Word) :=
  let text := trimBlanks (line.takeWhile (fun c => c != ';'))
  let operands := trimBlanks (text.dropWhile (fun c => !isBlank c))
  if text.isEmpty then some []
  else assembleFields (text.takeWhile (fun c => !isBlank c))
    (if operands.isEmpty then [] else (splitAtCommas operands).map trimBlanks)

/-- The words of a program, line by line. -/
def assemble : List (List Char) → Option (List Word)
  | [] => some []
  | l :: ls =>
    match assembleLine l, assemble ls with
    | some ws, some rest => some (ws ++ rest)
    | _, _ => none

end Sys2Proof.Machine
end

