-- ==== Sys2Proof/Safety.lean ====
section
/-! DEFINITION. What a legal state is (10_state.md R34), and what may happen in a run. -/

namespace Sys2Proof.Machine

/-- How many bytes a completed frame of this direction has put into `OUT` (10_state.md R34 item 3). -/
def frameOutput : Dir → Nat
  | .a => 256
  | .b => 192

/-- The block's own fields are those of the reset state (10_state.md R35), whatever the ports hold. -/
abbrev AtReset (s : State) : Prop :=
  s.ph = .idle ∧ s.dir = .a ∧ s.inv = false ∧ s.done = false ∧ s.err = .none ∧ s.wp = 0 ∧ s.ln = 0 ∧ s.lb = clearedLine ∧
    s.out = []

/-- The invariants of 10_state.md R34, item by item; item 1 is the types of the fields. -/
structure SpecInvariant (s : State) : Prop where
  /-- Item 2. -/
  fault_iff_error : s.ph = .fault ↔ s.err ≠ .none
  /-- Item 3. -/
  done_frame : s.done = true → s.ph = .idle ∧ s.err = .none ∧ s.ln = 32 ∧ s.wp = 0 ∧ s.lb = clearedLine ∧
    s.out.length = frameOutput s.dir
  /-- Item 4. -/
  run_a : s.ph = .run → s.dir = .a → s.wp.val ≤ 5 ∧ s.out.length = 8 * s.ln.val
  /-- Item 5. -/
  run_b : s.ph = .run → s.dir = .b → s.out.length = 6 * s.ln.val
  /-- Item 6. -/
  not_received : ∀ i : Fin 6, s.wp.val ≤ i.val → s.lb[i] = 0x00#8
  /-- Item 7. -/
  idle_at_reset : s.ph = .idle → s.done = false → AtReset s

/-- A legal state: R34, and what R34's own induction needs besides. It is inductive: every step keeps it. -/
structure LegalState (s : State) : Prop where
  /-- R34. -/
  spec : SpecInvariant s
  /-- With 32 lines complete no row is open (41_line_datapath.md R106: "then `WP = 0` necessarily"). -/
  full_frame_closed : s.ph = .run → s.ln = 32 → s.wp = 0
  /-- `OUT` is never longer than a frame's output (10_state.md R31). -/
  out_bounded : s.out.length ≤ frameOutput s.dir

/-- The state that a run of `k` steps answers, from reset, when the host presents these events. -/
def Reached (evs : List PortEvent) (k : Nat) (s : State) : Prop :=
  Sys2Proof.core.run k (present evs State.reset) = .next s

/-- The host issues these commands in order, and the block takes one step for each. -/
def runCommands (cs : List Instr) (s : State) : StepOutcome :=
  Sys2Proof.core.run cs.length (present (commandEvents (cs.map encode)) s)

/-- A step that answers a next state: neither a fault nor a refusal. -/
def Goes (o : StepOutcome) : Prop := ∃ t, o = .next t

/-- The commands that change nothing in any phase: `NOP`, `RD` and `MIR` (42_frame_control.md R134, last row). -/
def bystander : Instr → Bool
  | .nop => true
  | .rdCtl _ => true
  | .rdLbLow _ => true
  | .rdLbHigh _ => true
  | .mir _ => true
  | .start _ _ => false
  | .push _ => false
  | .eol => false
  | .endFrame => false
  | .rst => false

/-- The events that give the reset state: hardware reset, and the word of `RST` (10_state.md R35). -/
def resetsBlock : PortEvent → Bool
  | .reset => true
  | .command w => decode w == .command .rst

/-- The observation of a frame: `DONE`, `ERR`, and the output record, of which nothing may be asked while `DONE` is 0
(10_state.md R31; 70_reset_and_hazards.md R182, "Commit only on `DONE`"). -/
def observation (s : State) : Bool × ErrCode × Option (List Byte) :=
  (doneWire s, s.err, if doneWire s then some s.out else none)

end Sys2Proof.Machine
end

