-- ==== Sys2Proof/Certificates/Slice0/Obligations.lean ====
section
/-! DEFINITION. The statements for the provers. Each docstring names the rule of spec/ it formalises. A statement about a state
holds for every state its premises admit, reached by a run or not. In all of them a command word comes from the model's own
field `input` and a response goes to the model's own field `resp` (log entries 1 and 2). -/

open Sys2Proof Sys2Proof.Machine

/-! ### Encoding (30_encoding.md) -/

/-- Every well-formed command, with every operand its form admits, is read back from its own word (R70, R71, R72, R73). -/
def Obligations.DecodeOfEncodeIsTheCommand : Prop :=
  ∀ i : Instr, i.wf = true → decode (encode i) = .command i

/-- A word that decodes to a command is the one word of that command, and the command is well formed: decoding drops no bit
(R70, R73). -/
def Obligations.DecodedWordIsTheCommandsOnlyWord : Prop :=
  ∀ (w : Word) (i : Instr), decode w = .command i → i.wf = true ∧ encode i = w

/-- R71: a word is a command exactly when it carries the bits that the command's row fixes, for each of the ten rows of the
opcode table, and 530 words are commands. -/
def Obligations.WordsDecodeByTheRowsOfTheOpcodeMap : Prop :=
  (∀ w : Word, decode w = .command .nop ↔ w &&& 0xFFFF#16 = 0x0000#16) ∧
  (∀ w : Word, (∃ d v, decode w = .command (.start d v)) ↔ w &&& 0xFFFC#16 = 0x1000#16) ∧
  (∀ w : Word, (∃ b, decode w = .command (.push b)) ↔ w &&& 0xFF00#16 = 0x2000#16) ∧
  (∀ w : Word, decode w = .command .eol ↔ w &&& 0xFFFF#16 = 0x3000#16) ∧
  (∀ w : Word, decode w = .command .endFrame ↔ w &&& 0xFFFF#16 = 0x4000#16) ∧
  (∀ w : Word, decode w = .command .rst ↔ w &&& 0xFFFF#16 = 0x5000#16) ∧
  (∀ w : Word, (∃ r, decode w = .command (.rdCtl r)) ↔ w &&& 0xFFFC#16 = 0x6000#16) ∧
  (∀ w : Word, (∃ r, decode w = .command (.rdLbLow r)) ↔ w &&& 0xFFFC#16 = 0x6010#16) ∧
  (∀ w : Word, (∃ r, decode w = .command (.rdLbHigh r)) ↔ w &&& 0xFFFE#16 = 0x6014#16) ∧
  (∀ w : Word, (∃ b, decode w = .command (.mir b)) ↔ w &&& 0xFF00#16 = 0x7000#16) ∧
  (List.range 65536).countP (fun n => (decodeTableWord 16 n).isSome) = 530

/-- R74: the reserved words are exactly those listed; there are 65006 of them; each raises `E_ILL` in `IDLE` and `RUN` and is
ignored in `FAULT`; 0x5001 is not `RST`. -/
def Obligations.ReservedWordsAreThoseListedAndTrap : Prop :=
  (∀ w : Word, (∃ why, decode w = .reserved why) ↔
    (zField w ≠ 0#4 ∨ 8 ≤ (opField w).toNat ∨
      ((opField w = 0x0#4 ∨ opField w = 0x3#4 ∨ opField w = 0x4#4 ∨ opField w = 0x5#4) ∧ immField w ≠ 0x00#8) ∨
      (opField w = 0x1#4 ∧ (immField w).extractLsb' 2 6 ≠ 0#6) ∨
      (opField w = 0x6#4 ∧
        immField w ∉ [0x00#8, 0x01#8, 0x02#8, 0x03#8, 0x10#8, 0x11#8, 0x12#8, 0x13#8, 0x14#8, 0x15#8]))) ∧
  (List.range 65536).countP (fun n => (decodeTableWord 16 n).isNone) = 65006 ∧
  (∀ (s : State) (w : Word) (rest : List PortEvent) (why : Reserved),
    s.input = .command w :: rest → decode w = .reserved why →
      (s.ph ≠ .fault →
        step s = .next (respondStatus { s with err := .eIll, ph := .fault, done := false, input := rest })) ∧
      (s.ph = .fault → step s = .next (respondStatus { s with input := rest }))) ∧
  (∃ why, decode 0x5001#16 = .reserved why)

/-- Words of 95_test_vectors.md section 2.6 and R77, each read as the command it stands for. -/
def Obligations.SampleWordsDecodeToTheirCommands : Prop :=
  decode 0x0000#16 = .command .nop ∧ decode 0x1000#16 = .command (.start .a false) ∧
  decode 0x1001#16 = .command (.start .b false) ∧ decode 0x1002#16 = .command (.start .a true) ∧
  decode 0x1003#16 = .command (.start .b true) ∧ decode 0x20FF#16 = .command (.push 0xFF#8) ∧
  decode 0x3000#16 = .command .eol ∧ decode 0x4000#16 = .command .endFrame ∧ decode 0x5000#16 = .command .rst ∧
  decode 0x6003#16 = .command (.rdCtl .ocnt) ∧ decode 0x6010#16 = .command (.rdLbLow .lb0) ∧
  decode 0x6015#16 = .command (.rdLbHigh .lb5) ∧ decode 0x70FF#16 = .command (.mir 0xFF#8)

/-! ### State, status, reset (10_state.md, 70_reset_and_hazards.md) -/

/-- R35: every field at its reset value, after hardware reset and identically after `RST`. -/
def Obligations.ResetLeavesEveryFieldAtItsStatedValue : Prop :=
  AtReset State.reset ∧ status State.reset = 0x0000#16 ∧ doneWire State.reset = false ∧ errWire State.reset = false ∧
  (∀ (s : State) (rest : List PortEvent), s.input = .reset :: rest →
    ∃ t, step s = .next t ∧ AtReset t ∧ status t = 0x0000#16 ∧ doneWire t = false ∧ errWire t = false) ∧
  (∀ s : State, ∃ t, exec .rst s = .next t ∧ AtReset t ∧ status t = 0x0000#16 ∧ doneWire t = false ∧ errWire t = false)

/-- R178: hardware reset and `RST` have the same effect on the block; `RST` has a response, 0x0000, and a place in the command
order. The events still to come are the host's and stay (log entry 4). -/
def Obligations.HardwareResetAndRstAgree : Prop :=
  ∀ (s t u : State) (rest : List PortEvent),
    step { s with input := .reset :: rest } = .next t → step { s with input := .command 0x5000#16 :: rest } = .next u →
      t = { State.reset with input := rest, resp := t.resp } ∧ u = { t with resp := some 0x0000#16 }

/-- R32: the layout of `STATUS`, bit field by bit field, and the rule's six examples; with the two examples after them
(95_test_vectors.md program P5, steps 7 and 9), each of the three phases and each of the four error codes of R30 and R155 is
seen in its place. -/
def Obligations.StatusWordHasTheStatedLayout : Prop :=
  (∀ s : State,
    (status s).extractLsb' 0 2 = phaseBits s.ph ∧ (status s).getLsbD 2 = s.done ∧
    (status s).getLsbD 3 = decide (s.dir = .b) ∧ (status s).getLsbD 4 = s.inv ∧
    (status s).extractLsb' 5 3 = errBits s.err ∧ (status s).extractLsb' 8 8 = 0x00#8) ∧
  status State.reset = 0x0000#16 ∧
  status { State.reset with ph := .run } = 0x0001#16 ∧
  status { State.reset with ph := .run, dir := .b, inv := true } = 0x0019#16 ∧
  status { State.reset with done := true } = 0x0004#16 ∧
  status { State.reset with dir := .b, done := true } = 0x000C#16 ∧
  status { State.reset with ph := .fault, err := .eLen } = 0x0022#16 ∧
  status { State.reset with ph := .fault, err := .eIll } = 0x0042#16 ∧
  status { State.reset with ph := .fault, err := .eSeq } = 0x0062#16

/-- R33: `done = DONE` and `err = (ERR != 0)`. -/
def Obligations.WiresCopyTheState : Prop :=
  ∀ s : State, doneWire s = s.done ∧ (errWire s = true ↔ s.err ≠ .none)

/-! ### The step -/

/-- A word that decodes to a command: the step is that command's meaning, in the state with the word taken from the command
port (R80; log entry 1). -/
def Obligations.StepRunsTheDecodedCommand : Prop :=
  ∀ (s : State) (w : Word) (rest : List PortEvent) (i : Instr),
    s.input = .command w :: rest → decode w = .command i → step s = exec i { s with input := rest }

/-- With nothing presented the block waits: nothing changes but the response, which is not held. The model's reading of R35
and R79 (log entry 3). -/
def Obligations.StepWaitsWhenNothingIsPresented : Prop :=
  ∀ s : State, s.input = [] → step s = .next { s with resp := none }

/-- R58: one step is complete before anything later is looked at. What the host presents afterwards stays as it is and
changes nothing in what the step does. -/
def Obligations.LaterEventsDoNotAffectAStep : Prop :=
  ∀ (s : State) (e : PortEvent) (later : List PortEvent),
    step { s with input := e :: later } =
      match step { s with input := [e] } with
      | .next t => .next { t with input := later }
      | .fault f => .fault f
      | .refused r => .refused r

/-- R79: the response of every command, `STATUS` of the state after it but for `RD` and `MIR` (held in the field `resp`,
log entry 2). -/
def Obligations.EveryCommandAnswersItsResponse : Prop :=
  ∀ (s t : State) (w : Word) (rest : List PortEvent), s.input = .command w :: rest → step s = .next t →
    t.resp = some
      (match decode w with
      | .command (.mir b) => (rev8 b).setWidth 16
      | .command (.rdCtl r) => readReg s r
      | .command (.rdLbLow r) => readReg s r
      | .command (.rdLbHigh r) => readReg s r
      | _ => status t)

/-- The model's choice (log entries 2, 3 and 4): a step that executes no command, a wait or a hardware reset, completes and
leaves no response. -/
def Obligations.StepWithoutACommandHoldsNoResponse : Prop :=
  ∀ s : State, (∀ w rest, s.input ≠ .command w :: rest) → ∃ t, step s = .next t ∧ t.resp = none

/-! ### The commands -/

/-- R130: `NOP` changes nothing, in any phase; its response is `STATUS`. -/
def Obligations.NopOnlyAnswersStatus : Prop :=
  encode .nop = 0x0000#16 ∧
  ∀ s : State, exec .nop s = .next { s with resp := some (status s) }

/-- R131: `START` opens a frame in `IDLE`, raises `E_SEQ` in `RUN`, is ignored in `FAULT`; every field it does not write stays. -/
def Obligations.StartOpensAFrame : Prop :=
  ∀ (s : State) (d : Dir) (v : Bool),
    encode (.start d v) = 0x1000#16 + (if d = .b then 1#16 else 0#16) + 2#16 * (if v then 1#16 else 0#16) ∧
    (s.ph = .idle →
      exec (.start d v) s = .next (respondStatus
        { s with dir := d, inv := v, lb := #v[0x00#8, 0x00#8, 0x00#8, 0x00#8, 0x00#8, 0x00#8], wp := 0, ln := 0,
                 done := false, out := [], ph := .run })) ∧
    (s.ph = .run →
      exec (.start d v) s = .next (respondStatus { s with err := .eSeq, ph := .fault, done := false })) ∧
    (s.ph = .fault → exec (.start d v) s = .next (respondStatus s))

/-- R106: `PUSH` in every phase and direction. In Direction A the sixth byte of a line emits the row that `lineA` gives (R101,
R110). `WP = 6` in Direction A, which no run reaches, is the statement after this one. -/
def Obligations.PushTakesOneByte : Prop :=
  ∀ (s : State) (b : Byte),
    encode (.push b) = 0x2000#16 + b.setWidth 16 ∧
    (s.ph = .idle → exec (.push b) s = .next (respondStatus { s with err := .eSeq, ph := .fault, done := false })) ∧
    (s.ph = .fault → exec (.push b) s = .next (respondStatus s)) ∧
    (s.ph = .run → s.dir = .a → s.ln = 32 →
      exec (.push b) s = .next (respondStatus { s with err := .eLen, ph := .fault, done := false })) ∧
    (s.ph = .run → s.dir = .a → s.ln ≠ 32 → ∀ h : s.wp.val < 6, s.wp ≠ 5 →
      exec (.push b) s = .next (respondStatus { s with lb := s.lb.set s.wp.val b h, wp := s.wp + 1 })) ∧
    (s.ph = .run → s.dir = .a → s.ln ≠ 32 → s.wp = 5 →
      exec (.push b) s = .next (respondStatus
        { s with lb := #v[0x00#8, 0x00#8, 0x00#8, 0x00#8, 0x00#8, 0x00#8], wp := 0, ln := s.ln + 1,
                 out := s.out ++ (lineA (s.lb.set 5 b) s.inv).toList })) ∧
    (s.ph = .run → s.dir = .b → s.ln = 32 ∨ s.wp = 6 → exec (.push b) s = .next (respondStatus s)) ∧
    (s.ph = .run → s.dir = .b → s.ln ≠ 32 → ∀ h : s.wp.val < 6,
      exec (.push b) s = .next (respondStatus { s with lb := s.lb.set s.wp.val b h, wp := s.wp + 1 }))

/-- The model's reading (log entry 6) of R106 in an open Direction A frame with `WP = 6`, which no run reaches (R34 item 4):
there is no `LB[6]` to write (R22), `WP` stays at its cap (R23), and with `WP = 6` the line is completed from the six bytes it
holds. The pushed byte is dropped. -/
def Obligations.PushOnAFullLineCompletesIt : Prop :=
  ∀ (s : State) (b : Byte), s.ph = .run → s.dir = .a → s.ln ≠ 32 → s.wp = 6 →
    exec (.push b) s = .next (respondStatus
      { s with lb := #v[0x00#8, 0x00#8, 0x00#8, 0x00#8, 0x00#8, 0x00#8], wp := 0, ln := s.ln + 1,
               out := s.out ++ (lineA s.lb s.inv).toList })

/-- R107: `EOL` completes a row in an open Direction B frame with the line that `lineB` gives (R102, R111); it is dropped after
32 lines, raises `E_SEQ` in `IDLE` and in Direction A, and is ignored in `FAULT`. -/
def Obligations.EolClosesARow : Prop :=
  encode .eol = 0x3000#16 ∧
  ∀ s : State,
    (s.ph = .idle → exec .eol s = .next (respondStatus { s with err := .eSeq, ph := .fault, done := false })) ∧
    (s.ph = .fault → exec .eol s = .next (respondStatus s)) ∧
    (s.ph = .run → s.dir = .a →
      exec .eol s = .next (respondStatus { s with err := .eSeq, ph := .fault, done := false })) ∧
    (s.ph = .run → s.dir = .b → s.ln = 32 → exec .eol s = .next (respondStatus s)) ∧
    (s.ph = .run → s.dir = .b → s.ln ≠ 32 →
      exec .eol s = .next (respondStatus
        { s with lb := #v[0x00#8, 0x00#8, 0x00#8, 0x00#8, 0x00#8, 0x00#8], wp := 0, ln := s.ln + 1,
                 out := s.out ++ (lineB s.lb s.inv).toList }))

/-- R132: `END` in every phase and direction. In Direction B (with the line buffer as R34 item 6 says) the open row is closed
and the rest padded with bytes `PM(INV)` up to 32 lines. -/
def Obligations.EndClosesTheFrame : Prop :=
  encode .endFrame = 0x4000#16 ∧
  ∀ s : State,
    (s.ph = .idle → exec .endFrame s = .next (respondStatus { s with err := .eSeq, ph := .fault, done := false })) ∧
    (s.ph = .fault → exec .endFrame s = .next (respondStatus s)) ∧
    (s.ph = .run → s.dir = .a → s.ln = 32 ∧ s.wp = 0 →
      exec .endFrame s = .next (respondStatus { s with done := true, ph := .idle })) ∧
    (s.ph = .run → s.dir = .a → ¬(s.ln = 32 ∧ s.wp = 0) →
      exec .endFrame s = .next (respondStatus { s with err := .eLen, ph := .fault, done := false })) ∧
    (s.ph = .run → s.dir = .b → s.ln = 32 →
      exec .endFrame s = .next (respondStatus { s with done := true, ph := .idle })) ∧
    (s.ph = .run → s.dir = .b → s.ln ≠ 32 → (∀ i : Fin 6, s.wp.val ≤ i.val → s.lb[i] = 0x00#8) →
      exec .endFrame s = .next (respondStatus
        { s with done := true, ph := .idle, wp := 0, ln := 32,
                 lb := #v[0x00#8, 0x00#8, 0x00#8, 0x00#8, 0x00#8, 0x00#8],
                 out := s.out ++
                   (if s.wp = 0 then List.replicate (6 * (32 - s.ln.val)) (if s.inv then 0x00#8 else 0xFF#8)
                    else (lineB s.lb s.inv).toList ++
                      List.replicate (6 * (31 - s.ln.val)) (if s.inv then 0x00#8 else 0xFF#8)) }))

/-- R133: `RST` gives the reset state from every state, with response 0x0000. What the host will present is no field of the
block and stays (log entry 4). -/
def Obligations.RstReturnsToTheResetState : Prop :=
  encode .rst = 0x5000#16 ∧ decode 0x5001#16 ≠ .command .rst ∧
  ∀ s : State, exec .rst s = .next
    { ph := .idle, dir := .a, inv := false, done := false, err := .none, wp := 0, ln := 0,
      lb := #v[0x00#8, 0x00#8, 0x00#8, 0x00#8, 0x00#8, 0x00#8], out := [], input := s.input, resp := some 0x0000#16 }

/-- R150: `RD` of each of the ten registers, in every phase, changes nothing; the value read; every other number names no
register. `OCNT` is 9 bits wide, which holds every length that `OUT` can have (log entry 8). -/
def Obligations.RdReadsEachRegister : Prop :=
  ∀ s : State,
    exec (.rdCtl .status) s = .next { s with resp := some (status s) } ∧
    exec (.rdCtl .ln) s = .next { s with resp := some (BitVec.ofNat 16 s.ln.val) } ∧
    exec (.rdCtl .wp) s = .next { s with resp := some (BitVec.ofNat 16 s.wp.val) } ∧
    (s.out.length ≤ 256 → exec (.rdCtl .ocnt) s = .next { s with resp := some (BitVec.ofNat 16 s.out.length) }) ∧
    exec (.rdLbLow .lb0) s = .next { s with resp := some (s.lb[0].setWidth 16) } ∧
    exec (.rdLbLow .lb1) s = .next { s with resp := some (s.lb[1].setWidth 16) } ∧
    exec (.rdLbLow .lb2) s = .next { s with resp := some (s.lb[2].setWidth 16) } ∧
    exec (.rdLbLow .lb3) s = .next { s with resp := some (s.lb[3].setWidth 16) } ∧
    exec (.rdLbHigh .lb4) s = .next { s with resp := some (s.lb[4].setWidth 16) } ∧
    exec (.rdLbHigh .lb5) s = .next { s with resp := some (s.lb[5].setWidth 16) } ∧
    encode (.rdCtl .status) = 0x6000#16 ∧ encode (.rdCtl .ln) = 0x6001#16 ∧ encode (.rdCtl .wp) = 0x6002#16 ∧
    encode (.rdCtl .ocnt) = 0x6003#16 ∧ encode (.rdLbLow .lb0) = 0x6010#16 ∧ encode (.rdLbLow .lb1) = 0x6011#16 ∧
    encode (.rdLbLow .lb2) = 0x6012#16 ∧ encode (.rdLbLow .lb3) = 0x6013#16 ∧ encode (.rdLbHigh .lb4) = 0x6014#16 ∧
    encode (.rdLbHigh .lb5) = 0x6015#16 ∧
    (∀ n : Byte, n ∉ [0x00#8, 0x01#8, 0x02#8, 0x03#8, 0x10#8, 0x11#8, 0x12#8, 0x13#8, 0x14#8, 0x15#8] →
      decode (0x6000#16 + n.setWidth 16) = .reserved .noSuchRegister)

/-- R94: `MIR` answers the mirrored byte, zero-extended, and changes nothing, in every phase. -/
def Obligations.MirAnswersTheMirroredByte : Prop :=
  ∀ (s : State) (b : Byte),
    exec (.mir b) s = .next { s with resp := some ((rev8 b).setWidth 16) } ∧
    encode (.mir b) = 0x7000#16 + b.setWidth 16 ∧ ((rev8 b).setWidth 16 : Word).extractLsb' 8 8 = 0x00#8

/-- `PUSH`: the value of the byte never affects control (R106, corner cases). -/
def Obligations.PushedValueNeverAffectsControl : Prop :=
  ∀ (s : State) (b c : Byte), ∃ t u, exec (.push b) s = .next t ∧ exec (.push c) s = .next u ∧
      t.ph = u.ph ∧ t.dir = u.dir ∧ t.inv = u.inv ∧ t.done = u.done ∧ t.err = u.err ∧ t.wp = u.wp ∧ t.ln = u.ln ∧
        t.out.length = u.out.length ∧ t.resp = u.resp

/-! ### Errors and phases (60_exceptions.md, 42_frame_control.md R134) -/

/-- R158: a well-formed command that the table does not permit raises `E_SEQ` in `IDLE` and `RUN`, and one that it permits does
not. -/
def Obligations.SequenceErrorExactlyWhereNotPermitted : Prop :=
  ∀ (s : State) (i : Instr), s.ph ≠ .fault →
    ((match i with
      | .nop | .rst | .mir _ | .rdCtl _ | .rdLbLow _ | .rdLbHigh _ => True
      | .start _ _ => s.ph = .idle
      | .push _ => s.ph = .run
      | .eol => s.ph = .run ∧ s.dir = .b
      | .endFrame => s.ph = .run) →
      ∀ t, exec i s = .next t → t.err = .eSeq → s.err = .eSeq) ∧
    (¬(match i with
      | .nop | .rst | .mir _ | .rdCtl _ | .rdLbLow _ | .rdLbHigh _ => True
      | .start _ _ => s.ph = .idle
      | .push _ => s.ph = .run
      | .eol => s.ph = .run ∧ s.dir = .b
      | .endFrame => s.ph = .run) →
      exec i s = .next (respondStatus { s with err := .eSeq, ph := .fault, done := false }))

/-- R156: `E_LEN` is raised in Direction A alone, by a `PUSH` when 32 lines are complete and by an `END` when the bytes
accepted, `6*LN + WP`, are not 192. -/
def Obligations.LengthErrorExactlyAtAWrongLength : Prop :=
  ∀ (s t : State) (i : Instr), LegalState s → s.err ≠ .eLen → exec i s = .next t →
    (t.err = .eLen ↔
      s.ph = .run ∧ s.dir = .a ∧
        ((∃ b, i = .push b ∧ s.ln = 32) ∨ (i = .endFrame ∧ 6 * s.ln.val + s.wp.val ≠ 192)))

/-- R160: a step that enters `FAULT` writes `ERR`, `PH` and `DONE` and nothing else of the block. -/
def Obligations.ErrorEntryWritesThreeFields : Prop :=
  ∀ s t : State, step s = .next t → s.ph ≠ .fault → t.ph = .fault →
    t.err ≠ .none ∧
    t = { s with err := t.err, ph := .fault, done := false, input := s.input.tail, resp := some (status t) }

/-- R161: in `FAULT`, `START`, `PUSH`, `EOL`, `END` and every reserved word change nothing and answer `STATUS`; `NOP`, `MIR` and
`RD` work as always. -/
def Obligations.FaultIgnoresFrameCommands : Prop :=
  ∀ s : State, s.ph = .fault →
    (∀ d v, exec (.start d v) s = .next { s with resp := some (status s) }) ∧
    (∀ b, exec (.push b) s = .next { s with resp := some (status s) }) ∧
    exec .eol s = .next { s with resp := some (status s) } ∧
    exec .endFrame s = .next { s with resp := some (status s) } ∧
    (∀ w rest why, s.input = .command w :: rest → decode w = .reserved why →
      step s = .next { s with input := rest, resp := some (status s) }) ∧
    exec .nop s = .next { s with resp := some (status s) } ∧
    (∀ b, exec (.mir b) s = .next { s with resp := some ((rev8 b).setWidth 16) }) ∧
    (∀ r, exec (.rdCtl r) s = .next { s with resp := some (readReg s r) }) ∧
    (∀ r, exec (.rdLbLow r) s = .next { s with resp := some (readReg s r) }) ∧
    (∀ r, exec (.rdLbHigh r) s = .next { s with resp := some (readReg s r) })

/-- R162: a step leaves `FAULT` exactly when it is `RST` or hardware reset, and then it gives the reset state. -/
def Obligations.OnlyResetLeavesFault : Prop :=
  ∀ s t : State, s.ph = .fault → step s = .next t →
    (t.ph ≠ .fault ↔ ∃ e rest, s.input = e :: rest ∧ (e = .reset ∨ e = .command 0x5000#16)) ∧
    (t.ph ≠ .fault → AtReset t)

/-- R163: from `FAULT`, whatever the host presents short of a reset, the first error's code is kept, through any number of
steps. -/
def Obligations.FirstErrorIsKept : Prop :=
  ∀ (s t : State) (k : Nat), s.ph = .fault → (∀ e ∈ s.input.take k, resetsBlock e = false) →
    Sys2Proof.core.run k s = .next t → t.ph = .fault ∧ t.err = s.err

/-- R134: the phase after a command or a hardware reset, row by row, with the `also` column; the table is complete. -/
def Obligations.PhaseTransitionsAreTheTable : Prop :=
  ∀ (s t : State) (e : PortEvent) (rest : List PortEvent), s.input = e :: rest → step s = .next t →
    match e with
    | .reset => AtReset t
    | .command w =>
      match decode w, s.ph with
      | .command .rst, _ => AtReset t
      | .command .nop, _ => t = { s with input := rest, resp := t.resp }
      | .command (.mir _), _ => t = { s with input := rest, resp := t.resp }
      | .command (.rdCtl _), _ => t = { s with input := rest, resp := t.resp }
      | .command (.rdLbLow _), _ => t = { s with input := rest, resp := t.resp }
      | .command (.rdLbHigh _), _ => t = { s with input := rest, resp := t.resp }
      | _, .fault => t = { s with input := rest, resp := some (status s) }
      | .reserved _, _ => t.ph = .fault ∧ t.err = .eIll
      | .command (.start d v), .idle => t.ph = .run ∧ t.dir = d ∧ t.inv = v ∧ t.done = false ∧ t.out = []
      | .command (.start _ _), .run => t.ph = .fault ∧ t.err = .eSeq
      | .command (.push _), .idle => t.ph = .fault ∧ t.err = .eSeq
      | .command (.push _), .run => if s.dir = .a ∧ s.ln = 32 then t.ph = .fault ∧ t.err = .eLen else t.ph = .run
      | .command .eol, .idle => t.ph = .fault ∧ t.err = .eSeq
      | .command .eol, .run => if s.dir = .a then t.ph = .fault ∧ t.err = .eSeq else t.ph = .run
      | .command .endFrame, .idle => t.ph = .fault ∧ t.err = .eSeq
      | .command .endFrame, .run =>
        if s.dir = .b ∨ (s.ln = 32 ∧ s.wp = 0) then t.ph = .idle ∧ t.done = true else t.ph = .fault ∧ t.err = .eLen

/-- R25: `DIR` is written only by `START` (in `IDLE`, from its operand) and by a reset (to Direction A); so it cannot change
inside a frame. The same holds of `INV` (R26). -/
def Obligations.DirectionAndPolarityAreFixedByStart : Prop :=
  ∀ s t : State, step s = .next t →
    (t.dir = s.dir ∧ t.inv = s.inv) ∨
    (∃ d v rest, s.input = .command (encode (.start d v)) :: rest ∧ s.ph = .idle ∧ t.dir = d ∧ t.inv = v) ∨
    (∃ e rest, s.input = e :: rest ∧ resetsBlock e = true ∧ t.dir = .a ∧ t.inv = false)

/-- R29: from a legal state, `DONE` comes to be 1 only by an `END` in `RUN`, and stays 1 only through `NOP`, `RD`, `MIR` or no
event at all. -/
def Obligations.DoneIsSetByEndAloneAndKeptByBystanders : Prop :=
  ∀ s t : State, LegalState s → step s = .next t → t.done = true →
    (s.done = false ∧ s.ph = .run ∧ ∃ rest, s.input = .command (encode .endFrame) :: rest) ∨
    (s.done = true ∧ t.out = s.out ∧
      (s.input = [] ∨ ∃ i rest, bystander i = true ∧ s.input = .command (encode i) :: rest))

/-- Within a frame bytes are only appended to `OUT`; it is emptied only by `START` in `IDLE` and by a reset (R31, R58). -/
def Obligations.OutputIsOnlyAppendedTo : Prop :=
  ∀ s t : State, step s = .next t →
    (∃ bs, t.out = s.out ++ bs) ∨
    (t.out = [] ∧ ∃ e rest, s.input = e :: rest ∧
      (resetsBlock e = true ∨ (s.ph = .idle ∧ ∃ d v, e = .command (encode (.start d v)))))

/-- R181: output lags input by a line. In Direction A the eight bytes of a row come with the sixth byte of its line and none
before; in Direction B no `PUSH` emits anything and the six bytes come with `EOL`. (`WP = 6` in
Direction A, which no run reaches, is log entry 6.) -/
def Obligations.OutputLagsInputByALine : Prop :=
  (∀ (s t : State) (b : Byte), s.ph = .run → s.dir = .a → exec (.push b) s = .next t →
    t.out.length = if s.ln ≠ 32 ∧ 5 ≤ s.wp.val then s.out.length + 8 else s.out.length) ∧
  (∀ (s t : State) (b : Byte), s.ph = .run → s.dir = .b → exec (.push b) s = .next t → t.out = s.out) ∧
  (∀ s t : State, s.ph = .run → s.dir = .b → exec .eol s = .next t →
    t.out.length = if s.ln = 32 then s.out.length else s.out.length + 6)

/-! ### Invariants (10_state.md R34) -/

/-- The invariant holds at reset. -/
def Obligations.InvariantHoldsAtReset : Prop := LegalState State.reset

/-- Every step keeps the invariant, from every state that has it. -/
def Obligations.EveryStepKeepsTheInvariant : Prop :=
  ∀ s t : State, LegalState s → step s = .next t → LegalState t

/-- R34: in every state reachable from reset by any sequence of events, all items hold. -/
def Obligations.ReachableStatesMeetTheSpecsInvariants : Prop :=
  ∀ (evs : List PortEvent) (k : Nat) (s : State), Reached evs k s →
    (s.wp.val ≤ 6 ∧ s.ln.val ≤ 32) ∧ SpecInvariant s

/-- The step is total (R20), and so is every command (R186, "every command completes"): from every state, reached by a run or
not, there is a next state, whatever the host presents. -/
def Obligations.EveryStepAnswersANextState : Prop :=
  (∀ s : State, Goes (step s)) ∧ (∀ (i : Instr) (s : State), Goes (exec i s))

/-! ### The Byte Mirror (40_byte_mirror.md) -/

/-- R90: bit `i` of `rev8(b)` is bit `7 - i` of `b`. -/
def Obligations.MirrorReversesTheBits : Prop :=
  ∀ (b : Byte) (i : Fin 8), (rev8 b).getLsbD i.val = b.getLsbD (7 - i.val)

/-- R91: the table has 256 entries, and each is the mirror of its address. -/
def Obligations.TableHoldsTheMirrorOfEveryAddress : Prop :=
  lutTable.length = 256 ∧ ∀ a : Byte, lutRead a = rev8 a

/-- R92: the mirror is an involution, and it is not idempotent. -/
def Obligations.MirrorIsAnInvolution : Prop :=
  (∀ b : Byte, rev8 (rev8 b) = b) ∧ rev8 (rev8 0x01#8) = 0x01#8 ∧ rev8 0x01#8 = 0x80#8

/-- R93: the mirror commutes with exclusive-or and with complement. -/
def Obligations.MirrorCommutesWithXor : Prop :=
  (∀ b : Byte, rev8 (b ^^^ 0xFF#8) = rev8 b ^^^ 0xFF#8) ∧ (∀ a b : Byte, rev8 (a ^^^ b) = rev8 a ^^^ rev8 b) ∧
  rev8 0x00#8 = 0x00#8 ∧ rev8 0xFF#8 = 0xFF#8

/-- R95: the 16 fixed points, the 120 pairs, the population count. -/
def Obligations.MirrorFixesThePalindromes : Prop :=
  (∀ b : Byte, rev8 b = b ↔
    b ∈ [0x00#8, 0x18#8, 0x24#8, 0x3C#8, 0x42#8, 0x5A#8, 0x66#8, 0x7E#8, 0x81#8, 0x99#8, 0xA5#8, 0xBD#8, 0xC3#8, 0xDB#8,
      0xE7#8, 0xFF#8]) ∧
  (List.range 256).countP (fun n => decide ((BitVec.ofNat 8 n).toNat < (rev8 (BitVec.ofNat 8 n)).toNat)) = 120 ∧
  ∀ b : Byte, (List.range 8).countP (fun k => (rev8 b).getLsbD k) = (List.range 8).countP (fun k => b.getLsbD k)

/-! ### Lines (41_line_datapath.md) -/

/-- R101: `lineA`, byte by byte. -/
def Obligations.LineAIsTheReversedMirroredLine : Prop :=
  (∀ (L : Vector Byte 6) (v : Bool) (j : Fin 6),
    (lineA L v).toList[j.val]? = some (rev8 (L.toList.getD (5 - j.val) 0x00#8) ^^^ (if v then 0x00#8 else 0xFF#8))) ∧
  (∀ (L : Vector Byte 6) (v : Bool), (lineA L v)[6] = 0x00#8 ∧ (lineA L v)[7] = 0x00#8)

/-- R102: `lineB`, byte by byte. -/
def Obligations.LineBIsTheReversedMirroredRow : Prop :=
  ∀ (R : Vector Byte 6) (v : Bool) (j : Fin 6),
    (lineB R v).toList[j.val]? = some (rev8 (R.toList.getD (5 - j.val) 0x00#8 ^^^ (if v then 0x00#8 else 0xFF#8)))

/-- R103: the two directions compute the same six content bytes. -/
def Obligations.BothDirectionsComputeTheSameContent : Prop :=
  ∀ (X : Vector Byte 6) (v : Bool), lineB X v = contentBytes (lineA X v) ∧ lineB X v = lineCore X v

/-- R104: a line's transform is the reversal of its 48 bits, XORed with the polarity bit. -/
def Obligations.LineTransformReversesFortyEightBits : Prop :=
  ∀ (X : Vector Byte 6) (v : Bool) (n : Fin 48),
    (lineBits (lineCore X v)).getLsbD n.val = ((lineBits X).getLsbD (47 - n.val) ^^ !v)

/-- R105 and R114: a row is fitted to six bytes, and a missing byte comes out of Direction B as `PM(inv)`. -/
def Obligations.PaddingComesBeforePolarity : Prop :=
  (∀ (R : List Byte) (i : Fin 6), (fit6 R)[i] = if h : i.val < R.length then R[i.val] else 0x00#8) ∧
  (∀ (R : List Byte) (v : Bool) (j : Fin 6), R.length ≤ 5 - j.val →
    (lineB (fit6 R) v)[j] = if v then 0x00#8 else 0xFF#8)

/-- R108: the line functions are mutually inverse on content bytes for equal `inv`; for unequal `inv` every byte comes back
complemented. -/
def Obligations.LineFunctionsAreMutuallyInverse : Prop :=
  (∀ (L : Vector Byte 6) (v : Bool), lineB (contentBytes (lineA L v)) v = L) ∧
  (∀ (X : Vector Byte 6) (v : Bool), contentBytes (lineA (lineB X v) v) = X) ∧
  (∀ (L : Vector Byte 6) (v : Bool), lineB (contentBytes (lineA L v)) (!v) = L.map (fun x => x ^^^ 0xFF#8))

/-! ### Whole blocks and images (42_frame_control.md, 20_memory.md) -/

/-- `decodeBlock`, byte by byte, on blocks of exactly 192 bytes (R135; on other lengths R135 leaves it undefined and the
model's function answers nothing, log entry 14). -/
def Obligations.DecodeBlockByteByByte : Prop :=
  ∀ (D : List Byte) (v : Bool),
    (D.length ≠ 192 → decodeBlock D v = none) ∧
    (D.length = 192 → ∃ B, decodeBlock D v = some B ∧ B.length = 256 ∧
      ∀ l : Fin 32,
        (∀ j : Fin 6, B[8 * l.val + j.val]? =
          some (rev8 (D.getD (6 * l.val + 5 - j.val) 0x00#8) ^^^ (if v then 0x00#8 else 0xFF#8))) ∧
        B[8 * l.val + 6]? = some 0x00#8 ∧ B[8 * l.val + 7]? = some 0x00#8)

/-- R136: `encodeRows`, byte by byte, on every image. -/
def Obligations.EncodeRowsByteByByte : Prop :=
  ∀ (Rs : List (List Byte)) (v : Bool),
    (encodeRows Rs v).length = 192 ∧
    ∀ (l : Fin 32) (j : Fin 6), (encodeRows Rs v)[6 * l.val + j.val]? =
      some (rev8 ((Rs.getD l.val []).getD (5 - j.val) 0x00#8 ^^^ (if v then 0x00#8 else 0xFF#8)))

/-- R56: 192 bytes are 48 words whose big-endian serialisation is the same 192 bytes, and words are recovered from their bytes. -/
def Obligations.WordsSerialiseBigEndian : Prop :=
  (∀ D : List Byte, D.length = 192 →
    (wordsOfBytes D).length = 48 ∧ bytesOfWords (wordsOfBytes D) = D ∧
    ∀ n : Fin 48, (wordsOfBytes D)[n.val]? =
      some (D.getD (4 * n.val) 0 ++ D.getD (4 * n.val + 1) 0 ++ D.getD (4 * n.val + 2) 0 ++ D.getD (4 * n.val + 3) 0)) ∧
  (∀ ws : List Word32, wordsOfBytes (bytesOfWords ws) = ws)

/-- R137: the commands of `DECODE i, D` compute `decodeBlock`; after the `PUSH` of `D[k]` the first `8 * floor((k+1)/6)` bytes
are out; any other length ends in `E_LEN`; interleaved `NOP`, `MIR` and `RD` change none of this. -/
def Obligations.DecodeSequenceComputesDecodeBlock : Prop :=
  ∀ (s : State) (v : Bool) (D : List Byte) (cs : List Instr), LegalState s → s.ph = .idle → (∀ c ∈ cs, c.wf = true) →
    (∀ B, decodeBlock D v = some B → cs.filter (fun c => !bystander c) = decodeSequence v D →
      ∃ t, runCommands cs s = .next t ∧ t.ph = .idle ∧ t.done = true ∧ t.err = .none ∧ t.out = B ∧ t.ln = 32 ∧ t.wp = 0) ∧
    (∀ B (k : Fin 192), decodeBlock D v = some B →
      cs.filter (fun c => !bystander c) = .start .a v :: (D.take (k.val + 1)).map Instr.push →
      ∃ t, runCommands cs s = .next t ∧ t.out = B.take (8 * ((k.val + 1) / 6))) ∧
    (D.length ≠ 192 → cs.filter (fun c => !bystander c) = decodeSequence v D →
      ∃ t, runCommands cs s = .next t ∧ t.ph = .fault ∧ t.err = .eLen ∧ t.done = false)

/-- R138: the commands of `ENCODE i, Rs` compute `encodeRows`, the last row closed by `EOL` or left to `END`. -/
def Obligations.EncodeSequenceComputesEncodeRows : Prop :=
  ∀ (s : State) (v : Bool) (Rs : List (List Byte)), LegalState s → s.ph = .idle →
    (∃ t, runCommands (encodeSequence v Rs) s = .next t ∧ t.ph = .idle ∧ t.done = true ∧ t.err = .none ∧
      t.out = encodeRows Rs v ∧ t.ln = 32 ∧ t.wp = 0) ∧
    (∀ R : List Byte,
      ∃ t, runCommands (.start .b v :: (Rs.flatMap pushRow ++ R.map Instr.push ++ [.endFrame])) s = .next t ∧
        t.ph = .idle ∧ t.done = true ∧ t.err = .none ∧ t.out = encodeRows (Rs ++ [R]) v ∧ t.ln = 32 ∧ t.wp = 0)

/-- R139: the round trip on the device side. -/
def Obligations.RoundTripOnTheDeviceSide : Prop :=
  ∀ (D B : List Byte) (v : Bool), decodeBlock D v = some B → encodeRows (rows B) v = D

/-- R140: the round trip on the bitmap side gives the normalised image; with different `inv` every content byte comes back
complemented and the padding bytes still 0x00. -/
def Obligations.RoundTripOnTheBitmapSide : Prop :=
  ∀ (Rs : List (List Byte)) (v : Bool),
    (∃ B, decodeBlock (encodeRows Rs v) v = some B ∧
      ∀ l : Fin 32, (rows B)[l.val]? = some ((fit6 (Rs.getD l.val [])).toList ++ [0x00#8, 0x00#8])) ∧
    (∃ B, decodeBlock (encodeRows Rs v) (!v) = some B ∧
      ∀ l : Fin 32, (rows B)[l.val]? =
        some ((fit6 (Rs.getD l.val [])).toList.map (fun x => x ^^^ 0xFF#8) ++ [0x00#8, 0x00#8]))

/-- R141: constant blocks and the empty image. -/
def Obligations.ConstantBlocksAndTheEmptyImage : Prop :=
  decodeBlock (List.replicate 192 0x00#8) false =
    some ((List.replicate 32 [0xFF#8, 0xFF#8, 0xFF#8, 0xFF#8, 0xFF#8, 0xFF#8, 0x00#8, 0x00#8]).flatten) ∧
  decodeBlock (List.replicate 192 0x00#8) true = some (List.replicate 256 0x00#8) ∧
  decodeBlock (List.replicate 192 0xFF#8) false = some (List.replicate 256 0x00#8) ∧
  decodeBlock (List.replicate 192 0xFF#8) true =
    some ((List.replicate 32 [0xFF#8, 0xFF#8, 0xFF#8, 0xFF#8, 0xFF#8, 0xFF#8, 0x00#8, 0x00#8]).flatten) ∧
  ∀ v : Bool, encodeRows [] v = List.replicate 192 (if v then 0x00#8 else 0xFF#8)

/-- R168: every sequence of `PUSH` and `EOL` between a `START B` and an `END` ends with `DONE = 1` and 192 bytes out. -/
def Obligations.DirectionBNeverFails : Prop :=
  ∀ (s : State) (v : Bool) (cs : List Instr), LegalState s → s.ph = .idle → (∀ c ∈ cs, c = .eol ∨ ∃ b, c = .push b) →
    ∃ t, runCommands (.start .b v :: (cs ++ [.endFrame])) s = .next t ∧
      t.done = true ∧ t.ph = .idle ∧ t.err = .none ∧ t.out.length = 192
end

