-- ==== Sys2Proof/Laws/Decode.lean ====
section
/-! SUPPORT. The fields of a word and the word of its fields, said once. -/

namespace Sys2Proof

@[simp] theorem opField_wordOf (op z : BitVec 4) (imm : Byte) : opField (wordOf op z imm) = op := by
  apply BitVec.eq_of_getLsbD_eq
  intro i hi
  simp only [opField, wordOf, BitVec.getLsbD_append, BitVec.getLsbD_extractLsb']
  simp [hi, show ¬(12 + i < 8) by omega, show ¬(12 + i - 8 < 4) by omega, show 12 + i - 8 - 4 = i by omega]

@[simp] theorem zField_wordOf (op z : BitVec 4) (imm : Byte) : zField (wordOf op z imm) = z := by
  apply BitVec.eq_of_getLsbD_eq
  intro i hi
  simp only [zField, wordOf, BitVec.getLsbD_append, BitVec.getLsbD_extractLsb']
  simp [hi, show ¬(8 + i < 8) by omega, show 8 + i - 8 = i by omega]

@[simp] theorem immField_wordOf (op z : BitVec 4) (imm : Byte) : immField (wordOf op z imm) = imm := by
  apply BitVec.eq_of_getLsbD_eq
  intro i hi
  simp only [immField, wordOf, BitVec.getLsbD_append, BitVec.getLsbD_extractLsb']
  simp [hi]

/-- A word is the word of its three fields. -/
theorem wordOf_fields (c : Word) : wordOf (opField c) (zField c) (immField c) = c := by
  apply BitVec.eq_of_getLsbD_eq
  intro i hi
  simp only [wordOf, opField, zField, immField, BitVec.getLsbD_append, BitVec.getLsbD_extractLsb']
  by_cases h8 : i < 8
  · simp [h8]
  · by_cases h12 : i - 8 < 4
    · simp [h8, h12, show 8 + (i - 8) = i by omega]
    · simp [h8, h12, show i - 8 - 4 < 4 by omega, show 12 + (i - 8 - 4) = i by omega]

/-- Two words with the same fields are the same. -/
theorem word_ext {c d : Word} (op : opField c = opField d) (z : zField c = zField d) (imm : immField c = immField d) :
    c = d := by
  rw [← wordOf_fields c, ← wordOf_fields d, op, z, imm]

end Sys2Proof
end

