-- ==== Sys2Proof/Laws/State.lean ====
section
/-! SUPPORT. One lemma for each field and each operation that writes a state, so that no proof unfolds a record update. -/

namespace Sys2Proof.Machine

/-! ### `respond` -/

@[simp] theorem respond_ph (v : Word) (s : State) : (respond v s).ph = s.ph := rfl
@[simp] theorem respond_dir (v : Word) (s : State) : (respond v s).dir = s.dir := rfl
@[simp] theorem respond_inv (v : Word) (s : State) : (respond v s).inv = s.inv := rfl
@[simp] theorem respond_done (v : Word) (s : State) : (respond v s).done = s.done := rfl
@[simp] theorem respond_err (v : Word) (s : State) : (respond v s).err = s.err := rfl
@[simp] theorem respond_wp (v : Word) (s : State) : (respond v s).wp = s.wp := rfl
@[simp] theorem respond_ln (v : Word) (s : State) : (respond v s).ln = s.ln := rfl
@[simp] theorem respond_lb (v : Word) (s : State) : (respond v s).lb = s.lb := rfl
@[simp] theorem respond_out (v : Word) (s : State) : (respond v s).out = s.out := rfl
@[simp] theorem respond_input (v : Word) (s : State) : (respond v s).input = s.input := rfl
@[simp] theorem respond_resp (v : Word) (s : State) : (respond v s).resp = some v := rfl

/-! ### `respondStatus` -/

@[simp] theorem respondStatus_ph (s : State) : (respondStatus s).ph = s.ph := rfl
@[simp] theorem respondStatus_dir (s : State) : (respondStatus s).dir = s.dir := rfl
@[simp] theorem respondStatus_inv (s : State) : (respondStatus s).inv = s.inv := rfl
@[simp] theorem respondStatus_done (s : State) : (respondStatus s).done = s.done := rfl
@[simp] theorem respondStatus_err (s : State) : (respondStatus s).err = s.err := rfl
@[simp] theorem respondStatus_wp (s : State) : (respondStatus s).wp = s.wp := rfl
@[simp] theorem respondStatus_ln (s : State) : (respondStatus s).ln = s.ln := rfl
@[simp] theorem respondStatus_lb (s : State) : (respondStatus s).lb = s.lb := rfl
@[simp] theorem respondStatus_out (s : State) : (respondStatus s).out = s.out := rfl
@[simp] theorem respondStatus_input (s : State) : (respondStatus s).input = s.input := rfl
@[simp] theorem respondStatus_resp (s : State) : (respondStatus s).resp = some (status s) := rfl

/-! ### `emit` -/

@[simp] theorem emit_ph (bs : List Byte) (s : State) : (emit bs s).ph = s.ph := rfl
@[simp] theorem emit_dir (bs : List Byte) (s : State) : (emit bs s).dir = s.dir := rfl
@[simp] theorem emit_inv (bs : List Byte) (s : State) : (emit bs s).inv = s.inv := rfl
@[simp] theorem emit_done (bs : List Byte) (s : State) : (emit bs s).done = s.done := rfl
@[simp] theorem emit_err (bs : List Byte) (s : State) : (emit bs s).err = s.err := rfl
@[simp] theorem emit_wp (bs : List Byte) (s : State) : (emit bs s).wp = s.wp := rfl
@[simp] theorem emit_ln (bs : List Byte) (s : State) : (emit bs s).ln = s.ln := rfl
@[simp] theorem emit_lb (bs : List Byte) (s : State) : (emit bs s).lb = s.lb := rfl
@[simp] theorem emit_out (bs : List Byte) (s : State) : (emit bs s).out = s.out ++ bs := rfl
@[simp] theorem emit_input (bs : List Byte) (s : State) : (emit bs s).input = s.input := rfl
@[simp] theorem emit_resp (bs : List Byte) (s : State) : (emit bs s).resp = s.resp := rfl

/-! ### `closeLine` -/

@[simp] theorem closeLine_ph (s : State) : (closeLine s).ph = s.ph := rfl
@[simp] theorem closeLine_dir (s : State) : (closeLine s).dir = s.dir := rfl
@[simp] theorem closeLine_inv (s : State) : (closeLine s).inv = s.inv := rfl
@[simp] theorem closeLine_done (s : State) : (closeLine s).done = s.done := rfl
@[simp] theorem closeLine_err (s : State) : (closeLine s).err = s.err := rfl
@[simp] theorem closeLine_wp (s : State) : (closeLine s).wp = 0 := rfl
@[simp] theorem closeLine_ln (s : State) : (closeLine s).ln = nextLn s.ln := rfl
@[simp] theorem closeLine_lb (s : State) : (closeLine s).lb = clearedLine := rfl
@[simp] theorem closeLine_out (s : State) : (closeLine s).out = s.out := rfl
@[simp] theorem closeLine_input (s : State) : (closeLine s).input = s.input := rfl
@[simp] theorem closeLine_resp (s : State) : (closeLine s).resp = s.resp := rfl

/-! ### `completeLineA` -/

@[simp] theorem completeLineA_ph (s : State) : (completeLineA s).ph = s.ph := rfl
@[simp] theorem completeLineA_dir (s : State) : (completeLineA s).dir = s.dir := rfl
@[simp] theorem completeLineA_inv (s : State) : (completeLineA s).inv = s.inv := rfl
@[simp] theorem completeLineA_done (s : State) : (completeLineA s).done = s.done := rfl
@[simp] theorem completeLineA_err (s : State) : (completeLineA s).err = s.err := rfl
@[simp] theorem completeLineA_wp (s : State) : (completeLineA s).wp = 0 := rfl
@[simp] theorem completeLineA_ln (s : State) : (completeLineA s).ln = nextLn s.ln := rfl
@[simp] theorem completeLineA_lb (s : State) : (completeLineA s).lb = clearedLine := rfl
@[simp] theorem completeLineA_out (s : State) : (completeLineA s).out = s.out ++
      [contentA s 5, contentA s 4, contentA s 3, contentA s 2, contentA s 1, contentA s 0, 0x00#8, 0x00#8] := rfl
@[simp] theorem completeLineA_input (s : State) : (completeLineA s).input = s.input := rfl
@[simp] theorem completeLineA_resp (s : State) : (completeLineA s).resp = s.resp := rfl

/-! ### `completeLineB` -/

@[simp] theorem completeLineB_ph (s : State) : (completeLineB s).ph = s.ph := rfl
@[simp] theorem completeLineB_dir (s : State) : (completeLineB s).dir = s.dir := rfl
@[simp] theorem completeLineB_inv (s : State) : (completeLineB s).inv = s.inv := rfl
@[simp] theorem completeLineB_done (s : State) : (completeLineB s).done = s.done := rfl
@[simp] theorem completeLineB_err (s : State) : (completeLineB s).err = s.err := rfl
@[simp] theorem completeLineB_wp (s : State) : (completeLineB s).wp = 0 := rfl
@[simp] theorem completeLineB_ln (s : State) : (completeLineB s).ln = nextLn s.ln := rfl
@[simp] theorem completeLineB_lb (s : State) : (completeLineB s).lb = clearedLine := rfl
@[simp] theorem completeLineB_out (s : State) : (completeLineB s).out = s.out ++
      [contentB s 5, contentB s 4, contentB s 3, contentB s 2, contentB s 1, contentB s 0] := rfl
@[simp] theorem completeLineB_input (s : State) : (completeLineB s).input = s.input := rfl
@[simp] theorem completeLineB_resp (s : State) : (completeLineB s).resp = s.resp := rfl

/-! ### `openFrame` -/

@[simp] theorem openFrame_ph (d : Dir) (i : Bool) (s : State) : (openFrame d i s).ph = .run := rfl
@[simp] theorem openFrame_dir (d : Dir) (i : Bool) (s : State) : (openFrame d i s).dir = d := rfl
@[simp] theorem openFrame_inv (d : Dir) (i : Bool) (s : State) : (openFrame d i s).inv = i := rfl
@[simp] theorem openFrame_done (d : Dir) (i : Bool) (s : State) : (openFrame d i s).done = false := rfl
@[simp] theorem openFrame_err (d : Dir) (i : Bool) (s : State) : (openFrame d i s).err = s.err := rfl
@[simp] theorem openFrame_wp (d : Dir) (i : Bool) (s : State) : (openFrame d i s).wp = 0 := rfl
@[simp] theorem openFrame_ln (d : Dir) (i : Bool) (s : State) : (openFrame d i s).ln = 0 := rfl
@[simp] theorem openFrame_lb (d : Dir) (i : Bool) (s : State) : (openFrame d i s).lb = clearedLine := rfl
@[simp] theorem openFrame_out (d : Dir) (i : Bool) (s : State) : (openFrame d i s).out = [] := rfl
@[simp] theorem openFrame_input (d : Dir) (i : Bool) (s : State) : (openFrame d i s).input = s.input := rfl
@[simp] theorem openFrame_resp (d : Dir) (i : Bool) (s : State) : (openFrame d i s).resp = s.resp := rfl

/-! ### `finishFrame` -/

@[simp] theorem finishFrame_ph (s : State) : (finishFrame s).ph = .idle := rfl
@[simp] theorem finishFrame_dir (s : State) : (finishFrame s).dir = s.dir := rfl
@[simp] theorem finishFrame_inv (s : State) : (finishFrame s).inv = s.inv := rfl
@[simp] theorem finishFrame_done (s : State) : (finishFrame s).done = true := rfl
@[simp] theorem finishFrame_err (s : State) : (finishFrame s).err = s.err := rfl
@[simp] theorem finishFrame_wp (s : State) : (finishFrame s).wp = s.wp := rfl
@[simp] theorem finishFrame_ln (s : State) : (finishFrame s).ln = s.ln := rfl
@[simp] theorem finishFrame_lb (s : State) : (finishFrame s).lb = s.lb := rfl
@[simp] theorem finishFrame_out (s : State) : (finishFrame s).out = s.out := rfl
@[simp] theorem finishFrame_input (s : State) : (finishFrame s).input = s.input := rfl
@[simp] theorem finishFrame_resp (s : State) : (finishFrame s).resp = s.resp := rfl

/-! ### `raiseError` -/

@[simp] theorem raiseError_ph (e : ErrCode) (s : State) : (raiseError e s).ph = .fault := rfl
@[simp] theorem raiseError_dir (e : ErrCode) (s : State) : (raiseError e s).dir = s.dir := rfl
@[simp] theorem raiseError_inv (e : ErrCode) (s : State) : (raiseError e s).inv = s.inv := rfl
@[simp] theorem raiseError_done (e : ErrCode) (s : State) : (raiseError e s).done = false := rfl
@[simp] theorem raiseError_err (e : ErrCode) (s : State) : (raiseError e s).err = e := rfl
@[simp] theorem raiseError_wp (e : ErrCode) (s : State) : (raiseError e s).wp = s.wp := rfl
@[simp] theorem raiseError_ln (e : ErrCode) (s : State) : (raiseError e s).ln = s.ln := rfl
@[simp] theorem raiseError_lb (e : ErrCode) (s : State) : (raiseError e s).lb = s.lb := rfl
@[simp] theorem raiseError_out (e : ErrCode) (s : State) : (raiseError e s).out = s.out := rfl
@[simp] theorem raiseError_input (e : ErrCode) (s : State) : (raiseError e s).input = s.input := rfl
@[simp] theorem raiseError_resp (e : ErrCode) (s : State) : (raiseError e s).resp = s.resp := rfl

/-! ### `toReset` -/

@[simp] theorem toReset_ph (s : State) : (toReset s).ph = .idle := rfl
@[simp] theorem toReset_dir (s : State) : (toReset s).dir = .a := rfl
@[simp] theorem toReset_inv (s : State) : (toReset s).inv = false := rfl
@[simp] theorem toReset_done (s : State) : (toReset s).done = false := rfl
@[simp] theorem toReset_err (s : State) : (toReset s).err = .none := rfl
@[simp] theorem toReset_wp (s : State) : (toReset s).wp = 0 := rfl
@[simp] theorem toReset_ln (s : State) : (toReset s).ln = 0 := rfl
@[simp] theorem toReset_lb (s : State) : (toReset s).lb = clearedLine := rfl
@[simp] theorem toReset_out (s : State) : (toReset s).out = [] := rfl
@[simp] theorem toReset_input (s : State) : (toReset s).input = s.input := rfl
@[simp] theorem toReset_resp (s : State) : (toReset s).resp = none := rfl

/-! ### `takeEvent` -/

@[simp] theorem takeEvent_ph (s : State) : (takeEvent s).ph = s.ph := rfl
@[simp] theorem takeEvent_dir (s : State) : (takeEvent s).dir = s.dir := rfl
@[simp] theorem takeEvent_inv (s : State) : (takeEvent s).inv = s.inv := rfl
@[simp] theorem takeEvent_done (s : State) : (takeEvent s).done = s.done := rfl
@[simp] theorem takeEvent_err (s : State) : (takeEvent s).err = s.err := rfl
@[simp] theorem takeEvent_wp (s : State) : (takeEvent s).wp = s.wp := rfl
@[simp] theorem takeEvent_ln (s : State) : (takeEvent s).ln = s.ln := rfl
@[simp] theorem takeEvent_lb (s : State) : (takeEvent s).lb = s.lb := rfl
@[simp] theorem takeEvent_out (s : State) : (takeEvent s).out = s.out := rfl
@[simp] theorem takeEvent_input (s : State) : (takeEvent s).input = s.input.tail := rfl
@[simp] theorem takeEvent_resp (s : State) : (takeEvent s).resp = s.resp := rfl

/-! ### `awaitCommand` -/

@[simp] theorem awaitCommand_ph (s : State) : (awaitCommand s).ph = s.ph := rfl
@[simp] theorem awaitCommand_dir (s : State) : (awaitCommand s).dir = s.dir := rfl
@[simp] theorem awaitCommand_inv (s : State) : (awaitCommand s).inv = s.inv := rfl
@[simp] theorem awaitCommand_done (s : State) : (awaitCommand s).done = s.done := rfl
@[simp] theorem awaitCommand_err (s : State) : (awaitCommand s).err = s.err := rfl
@[simp] theorem awaitCommand_wp (s : State) : (awaitCommand s).wp = s.wp := rfl
@[simp] theorem awaitCommand_ln (s : State) : (awaitCommand s).ln = s.ln := rfl
@[simp] theorem awaitCommand_lb (s : State) : (awaitCommand s).lb = s.lb := rfl
@[simp] theorem awaitCommand_out (s : State) : (awaitCommand s).out = s.out := rfl
@[simp] theorem awaitCommand_input (s : State) : (awaitCommand s).input = s.input := rfl
@[simp] theorem awaitCommand_resp (s : State) : (awaitCommand s).resp = none := rfl

/-! ### `present` -/

@[simp] theorem present_ph (evs : List PortEvent) (s : State) : (present evs s).ph = s.ph := rfl
@[simp] theorem present_dir (evs : List PortEvent) (s : State) : (present evs s).dir = s.dir := rfl
@[simp] theorem present_inv (evs : List PortEvent) (s : State) : (present evs s).inv = s.inv := rfl
@[simp] theorem present_done (evs : List PortEvent) (s : State) : (present evs s).done = s.done := rfl
@[simp] theorem present_err (evs : List PortEvent) (s : State) : (present evs s).err = s.err := rfl
@[simp] theorem present_wp (evs : List PortEvent) (s : State) : (present evs s).wp = s.wp := rfl
@[simp] theorem present_ln (evs : List PortEvent) (s : State) : (present evs s).ln = s.ln := rfl
@[simp] theorem present_lb (evs : List PortEvent) (s : State) : (present evs s).lb = s.lb := rfl
@[simp] theorem present_out (evs : List PortEvent) (s : State) : (present evs s).out = s.out := rfl
@[simp] theorem present_input (evs : List PortEvent) (s : State) : (present evs s).input = evs ++ s.input := rfl
@[simp] theorem present_resp (evs : List PortEvent) (s : State) : (present evs s).resp = s.resp := rfl

/-! ### The views see only the fields they read -/

@[simp] theorem status_respond (v : Word) (s : State) : status (respond v s) = status s := rfl
@[simp] theorem status_respondStatus (s : State) : status (respondStatus s) = status s := rfl
@[simp] theorem status_takeEvent (s : State) : status (takeEvent s) = status s := rfl
@[simp] theorem status_awaitCommand (s : State) : status (awaitCommand s) = status s := rfl
@[simp] theorem status_present (evs : List PortEvent) (s : State) : status (present evs s) = status s := rfl
@[simp] theorem status_toReset (s : State) : status (toReset s) = 0x0000#16 := by
  rw [show status (toReset s) = status State.reset from rfl]; decide
@[simp] theorem readReg_takeEvent (s : State) (r : RegName) : readReg (takeEvent s) r = readReg s r := by cases r <;> rfl
@[simp] theorem permitted_takeEvent (i : Instr) (s : State) : permitted i (takeEvent s) = permitted i s := by cases i <;> rfl

/-! ### The reset state (10_state.md R35) -/

@[simp] theorem reset_ph : State.reset.ph = .idle := rfl
@[simp] theorem reset_dir : State.reset.dir = .a := rfl
@[simp] theorem reset_inv : State.reset.inv = false := rfl
@[simp] theorem reset_done : State.reset.done = false := rfl
@[simp] theorem reset_err : State.reset.err = .none := rfl
@[simp] theorem reset_wp : State.reset.wp = 0 := rfl
@[simp] theorem reset_ln : State.reset.ln = 0 := rfl
@[simp] theorem reset_lb : State.reset.lb = clearedLine := rfl
@[simp] theorem reset_out : State.reset.out = [] := rfl
@[simp] theorem reset_input : State.reset.input = [] := rfl
@[simp] theorem reset_resp : State.reset.resp = none := rfl

/-- Two states with the same fields are the same. -/
theorem state_ext {s t : State} (ph : s.ph = t.ph) (dir : s.dir = t.dir) (inv : s.inv = t.inv) (done : s.done = t.done)
    (err : s.err = t.err) (wp : s.wp = t.wp) (ln : s.ln = t.ln) (lb : s.lb = t.lb) (out : s.out = t.out)
    (input : s.input = t.input) (resp : s.resp = t.resp) : s = t := by
  cases s; cases t; simp_all

end Sys2Proof.Machine
end

