-- ==== Sys2Proof/Laws/Ops.lean ====
section
/-! SUPPORT. For each shared operation, once, everything it can do; for the step, once, everything it can answer. Later proofs
cite these and do not unfold the operations. -/

namespace Sys2Proof.Machine

/-! ### Counters and the line buffer -/

theorem nextWp_val_of_lt {wp : Fin 7} (h : wp.val < 6) : (nextWp wp).val = wp.val + 1 := by
  simp only [nextWp]; omega

theorem nextLn_val_of_lt {ln : Fin 33} (h : ln.val < 32) : (nextLn ln).val = ln.val + 1 := by
  simp only [nextLn]; omega

theorem nextWp_eq_add_one {wp : Fin 7} (h : wp.val < 6) : nextWp wp = wp + 1 := by
  apply Fin.ext
  rw [nextWp_val_of_lt h, Fin.val_add]
  simp only [Fin.val_one]
  omega

theorem nextLn_eq_add_one {ln : Fin 33} (h : ln.val < 32) : nextLn ln = ln + 1 := by
  apply Fin.ext
  rw [nextLn_val_of_lt h, Fin.val_add]
  simp only [Fin.val_one]
  omega

@[simp] theorem clearedLine_get (i : Fin 6) : clearedLine[i] = 0x00#8 := by
  revert i; decide

theorem wp_lt_six {wp : Fin 7} (h : wp ≠ 6) : wp.val < 6 := by
  have := wp.isLt
  have : wp.val ≠ 6 := fun e => h (Fin.ext e)
  omega

/-- Where `LB[WP]` exists, `storeByte` stores the byte there, moves `WP` on, and changes nothing else. -/
theorem storeByte_of_lt (b : Byte) {s : State} (hw : s.wp.val < 6) :
    storeByte b s = { s with lb := s.lb.set s.wp.val b hw, wp := nextWp s.wp } := by
  simp [storeByte, hw]

/-- Where it does not, `storeByte` changes nothing. -/
theorem storeByte_of_full (b : Byte) {s : State} (hw : s.wp = 6) : storeByte b s = s := by
  rcases s with ⟨ph, dir, inv, done, err, wp, ln, lb, out, input, resp⟩
  cases hw
  rfl

/-! ### Completing several lines -/

@[simp] theorem completeLinesB_ph (n : Nat) (s : State) : (completeLinesB n s).ph = s.ph := by
  induction n generalizing s with
  | zero => rfl
  | succ n ih => simp [completeLinesB, ih]

@[simp] theorem completeLinesB_dir (n : Nat) (s : State) : (completeLinesB n s).dir = s.dir := by
  induction n generalizing s with
  | zero => rfl
  | succ n ih => simp [completeLinesB, ih]

@[simp] theorem completeLinesB_inv (n : Nat) (s : State) : (completeLinesB n s).inv = s.inv := by
  induction n generalizing s with
  | zero => rfl
  | succ n ih => simp [completeLinesB, ih]

@[simp] theorem completeLinesB_done (n : Nat) (s : State) : (completeLinesB n s).done = s.done := by
  induction n generalizing s with
  | zero => rfl
  | succ n ih => simp [completeLinesB, ih]

@[simp] theorem completeLinesB_err (n : Nat) (s : State) : (completeLinesB n s).err = s.err := by
  induction n generalizing s with
  | zero => rfl
  | succ n ih => simp [completeLinesB, ih]

@[simp] theorem completeLinesB_input (n : Nat) (s : State) : (completeLinesB n s).input = s.input := by
  induction n generalizing s with
  | zero => rfl
  | succ n ih => simp [completeLinesB, ih]

@[simp] theorem completeLinesB_resp (n : Nat) (s : State) : (completeLinesB n s).resp = s.resp := by
  induction n generalizing s with
  | zero => rfl
  | succ n ih => simp [completeLinesB, ih]

/-- `n` completions move the line counter on by `n`, where that does not pass 32. -/
theorem completeLinesB_ln (n : Nat) (s : State) (h : s.ln.val + n ≤ 32) :
    (completeLinesB n s).ln.val = s.ln.val + n := by
  induction n generalizing s with
  | zero => rfl
  | succ n ih =>
    have hs : s.ln.val < 32 := by omega
    have hl : (completeLineB s).ln.val = s.ln.val + 1 := nextLn_val_of_lt hs
    have hn : (completeLineB s).ln.val + n ≤ 32 := by omega
    have := ih (completeLineB s) hn
    simp only [completeLinesB]
    omega

/-- At least one completion leaves the line buffer and the write pointer cleared. -/
theorem completeLinesB_lb {n : Nat} (s : State) (h : n ≠ 0) :
    (completeLinesB n s).lb = clearedLine ∧ (completeLinesB n s).wp = 0 := by
  induction n generalizing s with
  | zero => exact absurd rfl h
  | succ n ih =>
    cases n with
    | zero => exact ⟨rfl, rfl⟩
    | succ n => exact ih (completeLineB s) (by omega)

/-- Every completion adds six bytes to `OUT`. -/
theorem completeLinesB_out_length (n : Nat) (s : State) :
    (completeLinesB n s).out.length = s.out.length + 6 * n := by
  induction n generalizing s with
  | zero => rfl
  | succ n ih => rw [completeLinesB, ih]; simp; omega

/-- Completions only add to `OUT`. -/
theorem completeLinesB_out (n : Nat) (s : State) : ∃ bs, (completeLinesB n s).out = s.out ++ bs := by
  induction n generalizing s with
  | zero => exact ⟨[], by simp [completeLinesB]⟩
  | succ n ih =>
    obtain ⟨bs, h⟩ := ih (completeLineB s)
    rw [completeLinesB, h]
    simp

/-! ### The tests before a command executes -/

/-- Everything `guarded` can answer: ignored in `FAULT`, `E_SEQ` where not permitted, otherwise what the command does. -/
theorem guarded_cases (i : Instr) (s : State) (o : StepOutcome) :
    (s.ph = .fault ∧ guarded i s o = .next (respondStatus s)) ∨
    (s.ph ≠ .fault ∧ permitted i s = false ∧ guarded i s o = .next (respondStatus (raiseError .eSeq s))) ∨
    (s.ph ≠ .fault ∧ permitted i s = true ∧ guarded i s o = o) := by
  unfold guarded
  cases hp : s.ph <;> cases hm : permitted i s <;> simp

theorem guarded_fault {i : Instr} {s : State} {o : StepOutcome} (h : s.ph = .fault) :
    guarded i s o = .next (respondStatus s) := by
  simp [guarded, h]

theorem guarded_permitted {i : Instr} {s : State} {o : StepOutcome} (h : s.ph ≠ .fault) (hp : permitted i s = true) :
    guarded i s o = o := by
  rcases guarded_cases i s o with ⟨hf, _⟩ | ⟨_, hn, _⟩ | ⟨_, _, he⟩
  · exact absurd hf h
  · simp [hp] at hn
  · exact he

theorem guarded_not_permitted {i : Instr} {s : State} {o : StepOutcome} (h : s.ph ≠ .fault) (hp : permitted i s = false) :
    guarded i s o = .next (respondStatus (raiseError .eSeq s)) := by
  rcases guarded_cases i s o with ⟨hf, _⟩ | ⟨_, _, he⟩ | ⟨_, hn, _⟩
  · exact absurd hf h
  · exact he
  · simp [hp] at hn

theorem takeReserved_fault {s : State} (h : s.ph = .fault) : takeReserved s = respondStatus s := by
  simp [takeReserved, h]

theorem takeReserved_not_fault {s : State} (h : s.ph ≠ .fault) :
    takeReserved s = respondStatus (raiseError .eIll s) := by
  cases hp : s.ph <;> simp_all [takeReserved]

/-! ### One step -/

/-- Everything a step can do, by the next event at the ports. -/
theorem step_cases (s : State) :
    (s.input = [] ∧ step s = .next (awaitCommand s)) ∨
    (∃ rest, s.input = .reset :: rest ∧ step s = .next (toReset (takeEvent s))) ∨
    (∃ w rest i, s.input = .command w :: rest ∧ decode w = .command i ∧ step s = exec i (takeEvent s)) ∨
    (∃ w rest why, s.input = .command w :: rest ∧ decode w = .reserved why ∧ step s = .next (takeReserved (takeEvent s))) := by
  unfold step
  cases hi : s.input with
  | nil => simp
  | cons e rest =>
    cases e with
    | reset => simp
    | command w => cases hd : decode w <;> simp [hd]

/-- The invariant reads none of the ports. -/
theorem legalState_of_same_block {s t : State} (h : LegalState s) (ph : t.ph = s.ph) (dir : t.dir = s.dir)
    (done : t.done = s.done) (err : t.err = s.err) (wp : t.wp = s.wp) (ln : t.ln = s.ln) (lb : t.lb = s.lb)
    (out : t.out = s.out) (inv : t.inv = s.inv) : LegalState t := by
  refine ⟨⟨?_, ?_, ?_, ?_, ?_, ?_⟩, ?_, ?_⟩
  · rw [ph, err]; exact h.spec.fault_iff_error
  · rw [done, ph, err, ln, wp, lb, out, dir]; exact h.spec.done_frame
  · rw [ph, dir, wp, out, ln]; exact h.spec.run_a
  · rw [ph, dir, out, ln]; exact h.spec.run_b
  · rw [wp, lb]; exact h.spec.not_received
  · unfold AtReset; rw [ph, done, dir, inv, err, wp, ln, lb, out]; exact h.spec.idle_at_reset
  · rw [ph, ln, wp]; exact h.full_frame_closed
  · rw [out, dir]; exact h.out_bounded

end Sys2Proof.Machine
end

