-- ==== Sys2Proof/Laws/Effect.lean ====
section
/-! SUPPORT. Everything a command can do to a state, said once: the cases of `CommandEffect` are the lines of 30_encoding.md
R80 and of the commands' rules, and `exec_effect` says that `exec` does one of them. -/

namespace Sys2Proof.Machine

/-- What a command that answers a next state has done. -/
inductive CommandEffect (s : State) : Instr → State → Prop
  /-- `NOP`, `RD`, `MIR`: a response and nothing else (R130, R150, R94). -/
  | bystander {i : Instr} (v : Word) (hb : bystander i = true) : CommandEffect s i (respond v s)
  /-- `RST` (R133). -/
  | reset : CommandEffect s .rst (respondStatus (toReset s))
  /-- Ignored in `FAULT` (R161). -/
  | ignored {i : Instr} (hb : Machine.bystander i = false) (hr : i ≠ .rst) (hp : s.ph = .fault) :
      CommandEffect s i (respondStatus s)
  /-- Not permitted (R158). -/
  | notPermitted {i : Instr} (hp : s.ph ≠ .fault) (hn : permitted i s = false) :
      CommandEffect s i (respondStatus (raiseError .eSeq s))
  /-- `START` in `IDLE` (R131). -/
  | opened (d : Dir) (v : Bool) (hp : s.ph = .idle) : CommandEffect s (.start d v) (respondStatus (openFrame d v s))
  /-- The 193rd byte (R106, R156). -/
  | tooLong (b : Byte) (hp : s.ph = .run) (hd : s.dir = .a) (hl : s.ln = 32) :
      CommandEffect s (.push b) (respondStatus (raiseError .eLen s))
  /-- A byte stored; the line goes on (R106). In Direction B the sixth byte waits for `EOL`. -/
  | stored (b : Byte) (hp : s.ph = .run) (hl : s.ln ≠ 32) (hw : s.wp.val < 6) (hd : s.dir = .a → s.wp.val < 5) :
      CommandEffect s (.push b) (respondStatus { s with lb := s.lb.set s.wp.val b hw, wp := nextWp s.wp })
  /-- The sixth byte of a device line (R106, R110). -/
  | lineA (b : Byte) (hp : s.ph = .run) (hd : s.dir = .a) (hl : s.ln ≠ 32) (hw : s.wp.val = 5) :
      CommandEffect s (.push b)
        (respondStatus (completeLineA { s with lb := s.lb.set s.wp.val b (by omega), wp := nextWp s.wp }))
  /-- `PUSH` where the six bytes of the line are there already, which no run reaches (log entry 6). -/
  | lineFull (b : Byte) (hp : s.ph = .run) (hd : s.dir = .a) (hl : s.ln ≠ 32) (hw : s.wp = 6) :
      CommandEffect s (.push b) (respondStatus (completeLineA s))
  /-- A byte dropped in Direction B (R106). -/
  | dropped (b : Byte) (hp : s.ph = .run) (hd : s.dir = .b) (hl : s.ln = 32 ∨ s.wp = 6) :
      CommandEffect s (.push b) (respondStatus s)
  /-- `EOL` after 32 lines (R107). -/
  | eolDropped (hp : s.ph = .run) (hd : s.dir = .b) (hl : s.ln = 32) : CommandEffect s .eol (respondStatus s)
  /-- `EOL` completes the row (R107, R111). -/
  | lineB (hp : s.ph = .run) (hd : s.dir = .b) (hl : s.ln ≠ 32) :
      CommandEffect s .eol (respondStatus (completeLineB s))
  /-- `END` of a Direction A frame of 192 bytes (R132). -/
  | finishedA (hp : s.ph = .run) (hd : s.dir = .a) (hl : s.ln = 32) (hw : s.wp = 0) :
      CommandEffect s .endFrame (respondStatus (finishFrame s))
  /-- `END` of a Direction A frame of fewer (R132, R156). -/
  | tooShort (hp : s.ph = .run) (hd : s.dir = .a) (hl : ¬(s.ln = 32 ∧ s.wp = 0)) :
      CommandEffect s .endFrame (respondStatus (raiseError .eLen s))
  /-- `END` of a Direction B frame (R132). -/
  | finishedB (hp : s.ph = .run) (hd : s.dir = .b) : CommandEffect s .endFrame (respondStatus (endB s))

theorem ln_lt_32 {ln : Fin 33} (h : ln ≠ 32) : ln.val < 32 := by
  have := ln.isLt
  have : ln.val ≠ 32 := fun e => h (Fin.ext e)
  omega

theorem nextWp_eq_six {wp : Fin 7} (h : wp.val < 6) : nextWp wp = 6 ↔ wp.val = 5 := by
  rw [Fin.ext_iff, nextWp_val_of_lt h]
  show wp.val + 1 = 6 ↔ _
  omega

theorem pushOpen_effect (b : Byte) {s : State} (hp : s.ph = .run) :
    CommandEffect s (.push b) (respondStatus (pushOpen b s)) := by
  unfold pushOpen
  rcases hd : s.dir with _ | _
  · simp only [pushA]
    split
    · rename_i hl; exact .tooLong b hp hd hl
    · rename_i hl
      by_cases hw : s.wp = 6
      · rw [storeByte_of_full b hw, completeIfFull, if_pos hw]
        exact .lineFull b hp hd hl hw
      · have hlt := wp_lt_six hw
        rw [storeByte_of_lt b hlt]
        simp only [completeIfFull, nextWp_eq_six hlt]
        split
        · rename_i h5; exact .lineA b hp hd hl h5
        · exact .stored b hp hl hlt (fun _ => by omega)
  · simp only [pushB]
    split
    · rename_i hl; exact .dropped b hp hd (.inl hl)
    · rename_i hl
      split
      · rename_i hw; exact .dropped b hp hd (.inr hw)
      · rename_i hw
        rw [storeByte_of_lt b (wp_lt_six hw)]
        exact .stored b hp hl (wp_lt_six hw) (fun e => by simp [hd] at e)

/-- A command that passes the tests of R80, is ignored or is not permitted: what is left to show is what it does in the phase
and direction that permit it. -/
theorem guarded_effect {i : Instr} {s t : State} {o : StepOutcome} (hb : bystander i = false) (hr : i ≠ .rst)
    (h : guarded i s o = .next t) (ho : s.ph ≠ .fault → permitted i s = true → o = .next t → CommandEffect s i t) :
    CommandEffect s i t := by
  rcases guarded_cases i s o with ⟨hp, e⟩ | ⟨hp, hn, e⟩ | ⟨hp, hm, e⟩
  · rw [e] at h; cases h; exact .ignored hb hr hp
  · rw [e] at h; cases h; exact .notPermitted hp hn
  · exact ho hp hm (e ▸ h)

/-- What a command that answers a next state has done is one of the cases of `CommandEffect`. -/
theorem exec_effect {i : Instr} {s t : State} (h : exec i s = .next t) : CommandEffect s i t := by
  cases i with
  | nop => cases h; exact .bystander _ rfl
  | mir b => cases h; exact .bystander _ rfl
  | rdCtl r => cases h; exact .bystander _ rfl
  | rdLbLow r => cases h; exact .bystander _ rfl
  | rdLbHigh r => cases h; exact .bystander _ rfl
  | rst => cases h; exact .reset
  | start d v =>
    refine guarded_effect rfl (by simp) h fun _ hm ho => ?_
    cases ho
    exact .opened d v (by simpa [permitted] using hm)
  | push b =>
    refine guarded_effect rfl (by simp) h fun _ hm ho => ?_
    cases ho
    exact pushOpen_effect b (by simpa [permitted] using hm)
  | eol =>
    refine guarded_effect rfl (by simp) h fun _ hm ho => ?_
    cases ho
    simp only [permitted, Bool.and_eq_true, beq_iff_eq] at hm
    split
    · rename_i hl; exact .eolDropped hm.1 hm.2 hl
    · rename_i hl; exact .lineB hm.1 hm.2 hl
  | endFrame =>
    refine guarded_effect rfl (by simp) h fun _ hm ho => ?_
    cases ho
    have hp : s.ph = .run := by simpa [permitted] using hm
    unfold endOpen
    rcases hd : s.dir with _ | _
    · simp only [endA]
      split
      · rename_i hl; exact .finishedA hp hd hl.1 hl.2
      · rename_i hl; exact .tooShort hp hd hl
    · exact .finishedB hp hd

/-! ### `END` of Direction B, said once -/

@[simp] theorem closeOpenRow_ph (s : State) : (closeOpenRow s).ph = s.ph := by unfold closeOpenRow; split <;> rfl
@[simp] theorem closeOpenRow_dir (s : State) : (closeOpenRow s).dir = s.dir := by unfold closeOpenRow; split <;> rfl
@[simp] theorem closeOpenRow_inv (s : State) : (closeOpenRow s).inv = s.inv := by unfold closeOpenRow; split <;> rfl
@[simp] theorem closeOpenRow_done (s : State) : (closeOpenRow s).done = s.done := by unfold closeOpenRow; split <;> rfl
@[simp] theorem closeOpenRow_err (s : State) : (closeOpenRow s).err = s.err := by unfold closeOpenRow; split <;> rfl
@[simp] theorem closeOpenRow_input (s : State) : (closeOpenRow s).input = s.input := by unfold closeOpenRow; split <;> rfl
@[simp] theorem closeOpenRow_resp (s : State) : (closeOpenRow s).resp = s.resp := by unfold closeOpenRow; split <;> rfl

@[simp] theorem endB_ph (s : State) : (endB s).ph = .idle := rfl
@[simp] theorem endB_done (s : State) : (endB s).done = true := rfl
@[simp] theorem endB_dir (s : State) : (endB s).dir = s.dir := by simp [endB]
@[simp] theorem endB_inv (s : State) : (endB s).inv = s.inv := by simp [endB]
@[simp] theorem endB_err (s : State) : (endB s).err = s.err := by simp [endB]
@[simp] theorem endB_input (s : State) : (endB s).input = s.input := by simp [endB]
@[simp] theorem endB_resp (s : State) : (endB s).resp = s.resp := by simp [endB]

/-- `END` of Direction B always leaves 32 lines complete. -/
@[simp] theorem endB_ln (s : State) : (endB s).ln = 32 := by
  apply Fin.ext
  have hlt := (closeOpenRow s).ln.isLt
  have := completeLinesB_ln (32 - (closeOpenRow s).ln.val) (closeOpenRow s) (by omega)
  show (completeLinesB _ _).ln.val = 32
  omega

/-- `END` of Direction B only adds to `OUT`. -/
theorem endB_out (s : State) : ∃ bs, (endB s).out = s.out ++ bs := by
  obtain ⟨bs, h⟩ := completeLinesB_out (32 - (closeOpenRow s).ln.val) (closeOpenRow s)
  unfold closeOpenRow at h
  split at h
  · exact ⟨_, by rw [endB, finishFrame_out, closeOpenRow, if_pos (by assumption), h, completeLineB_out, List.append_assoc]⟩
  · exact ⟨_, by rw [endB, finishFrame_out, closeOpenRow, if_neg (by assumption), h]⟩

end Sys2Proof.Machine
end

