-- ==== Sys2Proof/Laws/PerInstr.lean ====
section
/-! SUPPORT. Statements made command by command: one lemma for each constructor of Instr. -/

/-- The word of a well-formed command carries the bits that its row of the opcode table fixes (30_encoding.md R71). -/
def Sys2Proof.Laws.EncodesItsRow.Statement (i : Sys2Proof.Instr) : Prop :=
  i.wf = true → Sys2Proof.encode i &&& (Sys2Proof.rowPattern i).2 = (Sys2Proof.rowPattern i).1

theorem Sys2Proof.Laws.EncodesItsRow.nop : Sys2Proof.Laws.EncodesItsRow.Statement .nop := fun _ => by decide

theorem Sys2Proof.Laws.EncodesItsRow.start (d : Sys2Proof.Dir) (i : Bool) :
    Sys2Proof.Laws.EncodesItsRow.Statement (.start d i) := fun _ => by
  cases d <;> cases i <;> decide

theorem Sys2Proof.Laws.EncodesItsRow.push (b : Sys2Proof.Byte) :
    Sys2Proof.Laws.EncodesItsRow.Statement (.push b) := fun _ => by
  revert b; decide

theorem Sys2Proof.Laws.EncodesItsRow.eol : Sys2Proof.Laws.EncodesItsRow.Statement .eol := fun _ => by decide

theorem Sys2Proof.Laws.EncodesItsRow.endFrame : Sys2Proof.Laws.EncodesItsRow.Statement .endFrame := fun _ => by decide

theorem Sys2Proof.Laws.EncodesItsRow.rst : Sys2Proof.Laws.EncodesItsRow.Statement .rst := fun _ => by decide

theorem Sys2Proof.Laws.EncodesItsRow.rdCtl (r : Sys2Proof.RegName) :
    Sys2Proof.Laws.EncodesItsRow.Statement (.rdCtl r) := fun h => by
  revert h; cases r <;> decide

theorem Sys2Proof.Laws.EncodesItsRow.rdLbLow (r : Sys2Proof.RegName) :
    Sys2Proof.Laws.EncodesItsRow.Statement (.rdLbLow r) := fun h => by
  revert h; cases r <;> decide

theorem Sys2Proof.Laws.EncodesItsRow.rdLbHigh (r : Sys2Proof.RegName) :
    Sys2Proof.Laws.EncodesItsRow.Statement (.rdLbHigh r) := fun h => by
  revert h; cases r <;> decide

theorem Sys2Proof.Laws.EncodesItsRow.mir (b : Sys2Proof.Byte) :
    Sys2Proof.Laws.EncodesItsRow.Statement (.mir b) := fun _ => by
  revert b; decide
end

