-- ==== Sys2Proof/Laws/Run.lean ====
section
/-! SUPPORT. Runs of several steps: one step peeled off, two runs joined, and the host's events taken one by one. -/

namespace Sys2Proof.Machine

@[simp] theorem run_zero (s : State) : Sys2Proof.core.run 0 s = .next s := rfl

theorem run_succ_next {s t : State} (k : Nat) (h : step s = .next t) :
    Sys2Proof.core.run (k + 1) s = Sys2Proof.core.run k t := by
  have h' : Sys2Proof.core.step s = .next t := h
  simp only [Host.Core.run, h']

theorem run_succ_fault {s : State} {f : Fault} (k : Nat) (h : step s = .fault f) :
    Sys2Proof.core.run (k + 1) s = .fault f := by
  have h' : Sys2Proof.core.step s = .fault f := h
  simp only [Host.Core.run, h']

theorem run_succ_refused {s : State} {r : Refusal} (k : Nat) (h : step s = .refused r) :
    Sys2Proof.core.run (k + 1) s = .refused r := by
  have h' : Sys2Proof.core.step s = .refused r := h
  simp only [Host.Core.run, h']

/-- A run of one step more that ends in a next state took a first step that did. -/
theorem run_succ_inv {s t : State} {k : Nat} (h : Sys2Proof.core.run (k + 1) s = .next t) :
    ∃ u, step s = .next u ∧ Sys2Proof.core.run k u = .next t := by
  cases hs : step s with
  | next u => exact ⟨u, rfl, run_succ_next k hs ▸ h⟩
  | fault f => exact absurd (run_succ_fault k hs ▸ h) (by simp)
  | refused r => exact absurd (run_succ_refused k hs ▸ h) (by simp)

/-- A run of `j` steps, then one of `k`, is a run of `j + k`. -/
theorem run_add_next {s t : State} {j : Nat} (k : Nat) (h : Sys2Proof.core.run j s = .next t) :
    Sys2Proof.core.run (j + k) s = Sys2Proof.core.run k t := by
  induction j generalizing s with
  | zero => cases h; rw [Nat.zero_add]
  | succ j ih =>
    obtain ⟨u, hs, hr⟩ := run_succ_inv h
    rw [Nat.succ_add, run_succ_next _ hs]
    exact ih hr

/-- Events presented in two parts. -/
theorem present_append (e f : List PortEvent) (s : State) : present (e ++ f) s = present e (present f s) := by
  simp [present]

/-- A presented word that decodes is executed with the rest still to come. -/
theorem step_present_command {s : State} {w : Word} {i : Instr} (rest : List PortEvent) (h : decode w = .command i) :
    step (present (.command w :: rest) s) = exec i (present rest s) := by
  simp [step, present, takeEvent, h]

end Sys2Proof.Machine
end

