-- ==== Sys2Proof/Tests/Slice0.lean ====
section
/-! SUPPORT. The model's own tests. Expected values are those of spec/95_test_vectors.md, or of the rule a test's comment names. -/

namespace Sys2Proof.Tests

open Sys2Proof Sys2Proof.Machine

/-! ### Helpers -/

/-- A state in an open frame with these counters, line buffer and output. -/
def openState (d : Dir) (v : Bool) (wp : Fin 7) (ln : Fin 33) (lb : Vector Byte 6) (out : List Byte) : State :=
  { State.reset with ph := .run, dir := d, inv := v, wp := wp, ln := ln, lb := lb, out := out }

/-- A state in `FAULT` after `E_SEQ`. -/
def faultState : State := { State.reset with ph := .fault, err := .eSeq }

/-- The outcome is a next state with this property. -/
def nextHas (o : StepOutcome) (p : State → Bool) : Bool :=
  match o with
  | .next t => p t
  | .fault _ => false
  | .refused _ => false

/-- `LB = 01 02 03 04 05 00`. -/
def fiveBytes : Vector Byte 6 := #v[0x01#8, 0x02#8, 0x03#8, 0x04#8, 0x05#8, 0x00#8]

/-- `LB = 01 02 03 04 05 06`. -/
def sixBytes : Vector Byte 6 := #v[0x01#8, 0x02#8, 0x03#8, 0x04#8, 0x05#8, 0x06#8]

/-- A list of zero bytes. -/
def zeros (n : Nat) : List Byte := List.replicate n 0x00#8

@[simp] theorem zeros_length (n : Nat) : (zeros n).length = n := by simp [zeros]

theorem zeros_take_one (n : Nat) : (zeros (n + 1)).take 1 = [0x00#8] := by simp [zeros, List.replicate_succ]

/-- A state with one command word presented. -/
def presented (w : Word) (s : State) : State := present [.command w] s

/-! ### Well-formedness: each check refuses an ill-formed term -/

theorem test_wf_refuses_line_register_in_control_row : (Instr.rdCtl .lb0).wf = false := by decide
theorem test_wf_refuses_high_register_in_low_row : (Instr.rdLbLow .lb4).wf = false := by decide
theorem test_wf_refuses_low_register_in_high_row : (Instr.rdLbHigh .lb3).wf = false := by decide
theorem test_wf_accepts_each_row :
    (Instr.rdCtl .ocnt).wf = true ∧ (Instr.rdLbLow .lb3).wf = true ∧ (Instr.rdLbHigh .lb5).wf = true := by decide

/-! ### Decoding: words written out bit by bit from 30_encoding.md R70 and spec/opcode_table.json (`OP Z IMM`) -/

theorem test_decode_nop : decode 0b0000000000000000#16 = .command .nop := by decide
theorem test_decode_start_b_raw : decode 0b0001000000000011#16 = .command (.start .b true) := by decide
theorem test_decode_start_bits : decode 0b0001000000000010#16 = .command (.start .a true) ∧
    decode 0b0001000000000001#16 = .command (.start .b false) := by decide
theorem test_decode_push : decode 0b0010000010010110#16 = .command (.push 0x96#8) := by decide
theorem test_decode_eol : decode 0b0011000000000000#16 = .command .eol := by decide
theorem test_decode_end : decode 0b0100000000000000#16 = .command .endFrame := by decide
theorem test_decode_rst : decode 0b0101000000000000#16 = .command .rst := by decide
theorem test_decode_rd_wp : decode 0b0110000000000010#16 = .command (.rdCtl .wp) := by decide
theorem test_decode_rd_lb2 : decode 0b0110000000010010#16 = .command (.rdLbLow .lb2) := by decide
theorem test_decode_rd_lb5 : decode 0b0110000000010101#16 = .command (.rdLbHigh .lb5) := by decide
theorem test_decode_mir : decode 0b0111000000011101#16 = .command (.mir 0x1D#8) := by decide

/-- The reserved words of 95_test_vectors.md section 2.6, each refused by the name of its case. -/
theorem test_decode_reserved :
    decode 0x0001#16 = .reserved .operandNotZero ∧ decode 0x0100#16 = .reserved .zNotZero ∧
    decode 0x1004#16 = .reserved .configNotZero ∧ decode 0x2100#16 = .reserved .zNotZero ∧
    decode 0x3001#16 = .reserved .operandNotZero ∧ decode 0x40FF#16 = .reserved .operandNotZero ∧
    decode 0x5001#16 = .reserved .operandNotZero ∧ decode 0x6004#16 = .reserved .noSuchRegister ∧
    decode 0x600F#16 = .reserved .noSuchRegister ∧ decode 0x6016#16 = .reserved .noSuchRegister ∧
    decode 0x60FF#16 = .reserved .noSuchRegister ∧ decode 0x7F00#16 = .reserved .zNotZero ∧
    decode 0x8000#16 = .reserved .opUndefined ∧ decode 0xF000#16 = .reserved .opUndefined := by decide

theorem test_decode_table_word : decodeTableWord 16 0x6015 = some (.rdLbHigh .lb5) ∧ decodeTableWord 16 0x8000 = none := by
  decide

/-! ### Sizes (00_scope.md R5) -/

theorem test_config_sizes :
    Config.width = 8 * Config.lineBytes ∧ Config.rowStride = Config.lineBytes + Config.padBytes ∧
    Config.blockBytes = Config.height * Config.lineBytes ∧ Config.blockBytes = 4 * Config.blockWords ∧
    Config.outABytes = Config.height * Config.rowStride ∧ Config.outBBytes = Config.height * Config.lineBytes ∧
    frameOutput .a = Config.outABytes ∧ frameOutput .b = Config.outBBytes := by decide

/-! ### The commands: rows of 95_test_vectors.md sections 2.1 to 2.5 -/

/-- 40_byte_mirror.md R94 and section 2.1: 0x1D gives 0xB8. -/
theorem test_mir : nextHas (exec (.mir 0x1D#8) faultState) (fun t => t == { faultState with resp := some 0x00B8#16 }) = true := by
  decide

/-- Row F1. -/
theorem test_nop : nextHas (exec .nop State.reset) (fun t => t.resp == some 0x0000#16) = true := by decide

/-- Row F6. -/
theorem test_start_after_frame :
    nextHas (exec (.start .a false) { State.reset with done := true, dir := .b, inv := true, ln := 32, out := [0x00#8] })
      (fun t => t == { State.reset with ph := .run, resp := some 0x0001#16 }) = true := by decide

/-- Row F7, Direction B, `invert` true. -/
theorem test_start_in_run :
    nextHas (exec (.start .a false) (openState .b true 0 0 clearedLine []))
      (fun t => t.resp == some 0x007A#16 && t.dir == .b) = true := by decide

/-- Row D2: the sixth byte of a device line. -/
theorem test_push_sixth_byte :
    nextHas (exec (.push 0x06#8) (openState .a true 5 0 fiveBytes []))
      (fun t => t == { openState .a true 0 1 clearedLine
        [0x60#8, 0xA0#8, 0x20#8, 0xC0#8, 0x40#8, 0x80#8, 0x00#8, 0x00#8] with resp := some 0x0011#16 }) = true := by decide

/-- Row D4: the 193rd byte. -/
theorem test_push_193rd :
    nextHas (exec (.push 0xAB#8) (openState .a false 0 32 clearedLine []))
      (fun t => t.resp == some 0x0022#16 && t.lb == clearedLine && t.out == []) = true := by decide

/-- Row D9: a short row is padded before polarity. -/
theorem test_eol_short_row :
    nextHas (exec .eol (openState .b false 3 0 #v[0x80#8, 0x01#8, 0xF0#8, 0x00#8, 0x00#8, 0x00#8] []))
      (fun t => t == { openState .b false 0 1 clearedLine [0xFF#8, 0xFF#8, 0xFF#8, 0xF0#8, 0x7F#8, 0xFE#8] with
        resp := some 0x0009#16 }) = true := by decide

/-- Row D12. -/
theorem test_eol_in_direction_a :
    nextHas (exec .eol (openState .a true 3 2 clearedLine [])) (fun t => t.resp == some 0x0072#16 && t.wp == 3) = true := by
  decide

/-- Row F14, the last two of the lines: the open row, then one line of padding. -/
theorem test_end_closes_open_row :
    nextHas (exec .endFrame (openState .b true 2 30 #v[0x01#8, 0x02#8, 0x00#8, 0x00#8, 0x00#8, 0x00#8] []))
      (fun t => t.out == [0x00#8, 0x00#8, 0x00#8, 0x00#8, 0x40#8, 0x80#8, 0x00#8, 0x00#8, 0x00#8, 0x00#8, 0x00#8, 0x00#8] &&
        t.ln == 32 && t.resp == some 0x001C#16) = true := by decide

/-- Row F11: 191 bytes. -/
theorem test_end_too_short :
    nextHas (exec .endFrame (openState .a false 5 31 fiveBytes []))
      (fun t => t.resp == some 0x0022#16 && t.ln == 31 && t.wp == 5 && t.lb == fiveBytes) = true := by decide

/-- 42_frame_control.md R133, the example. -/
theorem test_rst :
    nextHas (exec .rst { faultState with err := .eLen, ln := 31, wp := 5 })
      (fun t => t == { State.reset with resp := some 0x0000#16 }) = true := by decide

/-- Section 2.5: `RD LN`, and `RD OCNT` after a complete Direction A frame. -/
theorem test_rd_ln :
    nextHas (exec (.rdCtl .ln) (openState .a false 1 1 clearedLine [])) (fun t => t.resp == some 0x0001#16) = true := by
  decide
theorem test_rd_ocnt :
    nextHas (exec (.rdCtl .ocnt) (openState .a false 0 32 clearedLine (zeros 256)))
      (fun t => t.resp == some 0x0100#16) = true := by
  simp [exec, execRdCtl, nextHas, readReg, ocnt, openState]

/-- 43_status_read.md R150: `LB` is shown in arrival order, not reversed, not mirrored. -/
theorem test_rd_line_low : nextHas (exec (.rdLbLow .lb1) (openState .a false 5 0 fiveBytes []))
    (fun t => t.resp == some 0x0002#16) = true := by decide
theorem test_rd_line_high : nextHas (exec (.rdLbHigh .lb4) (openState .a false 5 0 fiveBytes []))
    (fun t => t.resp == some 0x0005#16) = true := by decide

/-- Program P5 step 7: a reserved word in `IDLE`; step 9: in `FAULT` it does not replace the code. -/
theorem test_reserved_word :
    nextHas (step (presented 0x8000#16 State.reset)) (fun t => t.resp == some 0x0042#16 && t.err == .eIll) = true ∧
    nextHas (step (presented 0x6004#16 faultState)) (fun t => t.resp == some 0x0062#16 && t.err == .eSeq) = true := by decide

/-- The first instruction after reset, through the fixed names. -/
theorem test_with_fetch_word :
    nextHas (step (State.reset.withFetchWord 16 0x1001)) (fun t => t.resp == some 0x0009#16 && t.input == []) = true := by
  decide

/-- The wires and the observation of a frame (10_state.md R31, R33). -/
theorem test_wires_and_observation :
    errWire faultState = true ∧ doneWire faultState = false ∧ observation faultState = (false, .eSeq, none) ∧
    observation { State.reset with done := true, out := [0xFF#8] } = (true, .none, some [0xFF#8]) := by decide

/-! ### Pure functions: 95_test_vectors.md section 2.2 -/

theorem test_line_a : lineA #v[0x12#8, 0x34#8, 0x56#8, 0x78#8, 0x9A#8, 0xBC#8] false =
    #v[0xC2#8, 0xA6#8, 0xE1#8, 0x95#8, 0xD3#8, 0xB7#8, 0x00#8, 0x00#8] := by decide
theorem test_line_b_of_short_row : lineB (fit6 [0x01#8, 0x02#8, 0x03#8]) false =
    #v[0xFF#8, 0xFF#8, 0xFF#8, 0x3F#8, 0xBF#8, 0x7F#8] := by decide
theorem test_word_bytes : wordBytes 0xFFFFFFF0#32 = [0xFF#8, 0xFF#8, 0xFF#8, 0xF0#8] := by decide

/-! ### Assembler (30_encoding.md R77, R78) -/

theorem test_assemble_start : assembleLine "START B, 1 ; open".toList = some [0x1003#16] := by decide
theorem test_assemble_rd : assembleLine "RD LB4".toList = some [0x6014#16] ∧ assembleLine "RD 0x04".toList = none := by decide
theorem test_assemble_row : assembleLine "PUSHR 1, 0x80".toList = some [0x2001#16, 0x2080#16, 0x3000#16] := by decide

/-! ### Witnesses: for every statement with premises, a state and operands that meet them, clause by clause -/

theorem legal_reset : LegalState State.reset :=
  ⟨⟨by decide, by decide, by decide, by decide, by decide, by decide⟩, by decide, by decide⟩

/-- A legal Direction A frame after 191 bytes. -/
def lateA : State := openState .a false 5 31 fiveBytes (zeros 248)

theorem legal_lateA : LegalState lateA :=
  ⟨⟨by decide, by decide, by simp [lateA, openState], by simp [lateA, openState], by decide, by decide⟩, by decide,
    by simp [lateA, openState, frameOutput]⟩

/-- A legal Direction A frame after 192 bytes. -/
def fullA : State := openState .a false 0 32 clearedLine (zeros 256)

theorem legal_fullA : LegalState fullA :=
  ⟨⟨by decide, by decide, by simp [fullA, openState], by simp [fullA, openState], by decide, by decide⟩, by decide,
    by simp [fullA, openState, frameOutput]⟩

/-- A legal Direction B frame with a full row open. -/
def rowB : State := openState .b false 6 31 sixBytes (zeros 186)

theorem legal_rowB : LegalState rowB :=
  ⟨⟨by decide, by decide, by simp [rowB, openState], by simp [rowB, openState], by decide, by decide⟩, by decide,
    by simp [rowB, openState, frameOutput]⟩

/-- A completed Direction B frame, `DONE` still 1. -/
def doneB : State := { State.reset with dir := .b, done := true, ln := 32, out := zeros 192 }

theorem legal_doneB : LegalState doneB :=
  ⟨⟨by decide, by simp [doneB, frameOutput], by decide, by decide, by decide, by decide⟩, by decide, by simp [doneB, frameOutput]⟩

theorem witness_DecodeOfEncodeIsTheCommand : (Instr.rdLbHigh .lb5).wf = true := by decide
theorem witness_DecodedWordIsTheCommandsOnlyWord : decode 0x6015#16 = .command (.rdLbHigh .lb5) := by decide

/-- `RUN` and `FAULT`. -/
theorem witness_ReservedWordsAreThoseListedAndTrap :
    (presented 0xFFFF#16 rowB).input = .command 0xFFFF#16 :: [] ∧ decode 0xFFFF#16 = .reserved .zNotZero ∧
    rowB.ph ≠ .fault ∧ (presented 0xFFFF#16 faultState).ph = .fault := by decide

theorem witness_ResetLeavesEveryFieldAtItsStatedValue : (present [.reset] rowB).input = .reset :: [] := by decide

theorem witness_HardwareResetAndRstAgree :
    ∃ t u, step { rowB with input := [.reset] } = .next t ∧ step { rowB with input := [.command 0x5000#16] } = .next u :=
  ⟨_, _, rfl, rfl⟩

theorem witness_StepRunsTheDecodedCommand :
    (presented 0x20FF#16 rowB).input = .command 0x20FF#16 :: [] ∧ decode 0x20FF#16 = .command (.push 0xFF#8) := by decide

theorem witness_StepWaitsWhenNothingIsPresented : rowB.input = [] := rfl

theorem witness_EveryCommandAnswersItsResponse :
    ∃ t, (presented 0x7001#16 rowB).input = .command 0x7001#16 :: [] ∧ step (presented 0x7001#16 rowB) = .next t :=
  ⟨_, rfl, rfl⟩

/-- A wait; a hardware reset. -/
theorem witness_StepWithoutACommandHoldsNoResponse :
    (∀ w rest, rowB.input ≠ .command w :: rest) ∧ (∀ w rest, (present [.reset] rowB).input ≠ .command w :: rest) :=
  ⟨by simp [rowB, openState], by simp⟩

/-- `IDLE`, `RUN`, `FAULT`. -/
theorem witness_StartOpensAFrame : doneB.ph = .idle ∧ rowB.ph = .run ∧ faultState.ph = .fault := by decide

/-- The clauses in order; the stores at both ends of the range of `WP`, `LN` at 31 and 32. -/
theorem witness_PushTakesOneByte :
    doneB.ph = .idle ∧ faultState.ph = .fault ∧
    (fullA.ph = .run ∧ fullA.dir = .a ∧ fullA.ln = 32) ∧
    ((openState .a false 0 0 clearedLine []).ln ≠ 32 ∧ (openState .a false 0 0 clearedLine []).wp.val < 6 ∧
      (openState .a false 0 0 clearedLine []).wp ≠ 5) ∧
    ((openState .a false 4 31 clearedLine []).ln ≠ 32 ∧ (openState .a false 4 31 clearedLine []).wp.val < 6 ∧
      (openState .a false 4 31 clearedLine []).wp ≠ 5) ∧
    (lateA.ph = .run ∧ lateA.dir = .a ∧ lateA.ln ≠ 32 ∧ lateA.wp = 5) ∧
    (rowB.ph = .run ∧ rowB.dir = .b ∧ rowB.wp = 6) ∧ ((openState .b false 0 32 clearedLine []).ln = 32) ∧
    ((openState .b false 5 31 clearedLine []).ln ≠ 32 ∧ (openState .b false 5 31 clearedLine []).wp.val < 6) := by decide

/-- A state that no run reaches. -/
def fullLineA : State := openState .a false 6 31 sixBytes (zeros 248)

theorem witness_PushOnAFullLineCompletesIt :
    fullLineA.ph = .run ∧ fullLineA.dir = .a ∧ fullLineA.ln ≠ 32 ∧ fullLineA.wp = 6 := by decide

/-- The clauses in order. -/
theorem witness_EolClosesARow :
    State.reset.ph = .idle ∧ faultState.ph = .fault ∧ (lateA.ph = .run ∧ lateA.dir = .a) ∧
    ((openState .b false 0 32 clearedLine []).ph = .run ∧ (openState .b false 0 32 clearedLine []).ln = 32) ∧
    (rowB.ph = .run ∧ rowB.dir = .b ∧ rowB.ln ≠ 32) := by decide

/-- The clauses in order; the last with an open row and with none. -/
theorem witness_EndClosesTheFrame :
    State.reset.ph = .idle ∧ faultState.ph = .fault ∧ (fullA.ph = .run ∧ fullA.dir = .a ∧ fullA.ln = 32 ∧ fullA.wp = 0) ∧
    (lateA.ph = .run ∧ lateA.dir = .a ∧ ¬(lateA.ln = 32 ∧ lateA.wp = 0)) ∧
    ((openState .b true 0 32 clearedLine []).dir = .b ∧ (openState .b true 0 32 clearedLine []).ln = 32) ∧
    (rowB.ph = .run ∧ rowB.dir = .b ∧ rowB.ln ≠ 32 ∧ rowB.wp ≠ 0 ∧ ∀ i : Fin 6, rowB.wp.val ≤ i.val → rowB.lb[i] = 0x00#8) ∧
    (∀ i : Fin 6, (openState .b true 0 0 clearedLine []).wp.val ≤ i.val →
      (openState .b true 0 0 clearedLine []).lb[i] = 0x00#8) := by decide

/-- The bound on `OUT`, at its end; an undefined register number. -/
theorem witness_RdReadsEachRegister :
    fullA.out.length = 256 ∧
    0x04#8 ∉ [0x00#8, 0x01#8, 0x02#8, 0x03#8, 0x10#8, 0x11#8, 0x12#8, 0x13#8, 0x14#8, 0x15#8] := by
  simp [fullA, openState]

/-- A permitted command and one that is not. -/
theorem witness_SequenceErrorExactlyWhereNotPermitted :
    rowB.ph ≠ .fault ∧ (rowB.ph = .run ∧ rowB.dir = .b) ∧ (∃ t, exec .eol rowB = .next t) ∧ lateA.ph ≠ .fault ∧
    ¬(lateA.ph = .run ∧ lateA.dir = .b) :=
  ⟨by decide, by decide, ⟨_, rfl⟩, by decide, by decide⟩

theorem witness_LengthErrorExactlyAtAWrongLength :
    LegalState lateA ∧ lateA.err ≠ .eLen ∧ ∃ t, exec .endFrame lateA = .next t :=
  ⟨legal_lateA, by decide, ⟨_, rfl⟩⟩

theorem witness_ErrorEntryWritesThreeFields :
    ∃ t, step (presented 0x4000#16 lateA) = .next t ∧ (presented 0x4000#16 lateA).ph ≠ .fault ∧ t.ph = .fault :=
  ⟨_, rfl, by decide, by decide⟩

theorem witness_FaultIgnoresFrameCommands :
    faultState.ph = .fault ∧ (presented 0x8000#16 faultState).ph = .fault ∧
    (presented 0x8000#16 faultState).input = .command 0x8000#16 :: [] ∧ decode 0x8000#16 = .reserved .opUndefined := by decide

theorem witness_OnlyResetLeavesFault :
    ∃ t, (presented 0x5000#16 faultState).ph = .fault ∧ step (presented 0x5000#16 faultState) = .next t ∧ t.ph ≠ .fault :=
  ⟨_, by decide, rfl, by decide⟩

theorem witness_FirstErrorIsKept :
    ∃ t, (presented 0x1000#16 faultState).ph = .fault ∧
      (∀ e ∈ (presented 0x1000#16 faultState).input.take 1, resetsBlock e = false) ∧
      Sys2Proof.core.run 1 (presented 0x1000#16 faultState) = .next t :=
  ⟨_, by decide, by decide, rfl⟩

/-- This event takes the block from the phase of this state to that phase. -/
def moves (e : PortEvent) (s : State) (p q : Phase) : Prop :=
  ∃ t, (present [e] { s with input := [] }).input = e :: [] ∧ s.ph = p ∧
    step (present [e] { s with input := [] }) = .next t ∧ t.ph = q

/-- The rows of 42_frame_control.md R134 in the order of the table, a row's commands and phases one by one. -/
theorem witness_PhaseTransitionsAreTheTable :
    (moves .reset faultState .fault .idle ∧ moves (.command 0x5000#16) rowB .run .idle) ∧
    moves (.command 0x1003#16) doneB .idle .run ∧
    (moves (.command 0x20FF#16) doneB .idle .fault ∧ moves (.command 0x3000#16) doneB .idle .fault ∧
      moves (.command 0x4000#16) doneB .idle .fault) ∧
    moves (.command 0x5001#16) doneB .idle .fault ∧
    moves (.command 0x4000#16) rowB .run .idle ∧
    moves (.command 0x4000#16) fullA .run .idle ∧
    moves (.command 0x4000#16) lateA .run .fault ∧
    moves (.command 0x20FF#16) fullA .run .fault ∧
    moves (.command 0x1000#16) rowB .run .fault ∧
    moves (.command 0x3000#16) lateA .run .fault ∧
    moves (.command 0x8000#16) rowB .run .fault ∧
    (moves (.command 0x20FF#16) lateA .run .run ∧ moves (.command 0x3000#16) rowB .run .run) ∧
    (moves (.command 0x1000#16) faultState .fault .fault ∧ moves (.command 0x8000#16) faultState .fault .fault) ∧
    (moves (.command 0x0000#16) rowB .run .run ∧ moves (.command 0x7001#16) doneB .idle .idle ∧
      moves (.command 0x6000#16) faultState .fault .fault ∧ moves (.command 0x6010#16) rowB .run .run ∧
      moves (.command 0x6014#16) rowB .run .run) := by
  repeat' apply And.intro
  all_goals exact ⟨_, rfl, rfl, rfl, rfl⟩

theorem witness_DirectionAndPolarityAreFixedByStart : ∃ t, step (presented 0x1003#16 State.reset) = .next t := ⟨_, rfl⟩
theorem witness_OutputIsOnlyAppendedTo : ∃ t, step (presented 0x3000#16 rowB) = .next t := ⟨_, rfl⟩

/-- `DONE` set by `END`; `DONE` kept by `NOP`. -/
theorem witness_DoneIsSetByEndAloneAndKeptByBystanders :
    (LegalState (presented 0x4000#16 fullA) ∧ ∃ t, step (presented 0x4000#16 fullA) = .next t ∧ t.done = true) ∧
    (LegalState (presented 0x0000#16 doneB) ∧ ∃ t, step (presented 0x0000#16 doneB) = .next t ∧ t.done = true) :=
  ⟨⟨legalState_of_same_block legal_fullA rfl rfl rfl rfl rfl rfl rfl rfl rfl, ⟨_, rfl, by decide⟩⟩,
    ⟨legalState_of_same_block legal_doneB rfl rfl rfl rfl rfl rfl rfl rfl rfl, ⟨_, rfl, by decide⟩⟩⟩

/-- The three clauses. -/
theorem witness_OutputLagsInputByALine :
    (lateA.ph = .run ∧ lateA.dir = .a ∧ ∃ t, exec (.push 0xBF#8) lateA = .next t) ∧
    (rowB.ph = .run ∧ rowB.dir = .b ∧ ∃ t, exec (.push 0xAA#8) rowB = .next t) ∧
    (rowB.ph = .run ∧ rowB.dir = .b ∧ ∃ t, exec .eol rowB = .next t) :=
  ⟨⟨rfl, rfl, ⟨_, rfl⟩⟩, ⟨rfl, rfl, ⟨_, rfl⟩⟩, ⟨rfl, rfl, ⟨_, rfl⟩⟩⟩

theorem witness_EveryStepKeepsTheInvariant :
    LegalState (presented 0x20BF#16 lateA) ∧ ∃ t, step (presented 0x20BF#16 lateA) = .next t :=
  ⟨legalState_of_same_block legal_lateA rfl rfl rfl rfl rfl rfl rfl rfl rfl, ⟨_, rfl⟩⟩

theorem witness_ReachableStatesMeetTheSpecsInvariants : ∃ s, Reached [.command 0x1001#16, .command 0x2080#16] 2 s := ⟨_, rfl⟩

/-- A missing byte at the last position and, in the empty row, at the first. -/
theorem witness_PaddingComesBeforePolarity :
    ([] : List Byte).length ≤ 5 - (5 : Fin 6).val ∧ (List.replicate 5 0x01#8).length ≤ 5 - (0 : Fin 6).val := by decide

/-- A block of 192 bytes, and one of 191. -/
theorem witness_DecodeBlockByteByByte :
    (zeros 192).length = 192 ∧ (zeros 191).length ≠ 192 := by simp

theorem witness_WordsSerialiseBigEndian : (zeros 192).length = 192 := by simp

/-- The premises on the state, the commands and the block, clause by clause: 192 bytes with a `MIR` between; a first byte with
a `NOP` before it; no bytes. -/
theorem witness_DecodeSequenceComputesDecodeBlock :
    LegalState doneB ∧ doneB.ph = .idle ∧
    (∃ B, decodeBlock (zeros 192) true = some B) ∧
    (∀ c ∈ .mir 0x01#8 :: decodeSequence true (zeros 192), c.wf = true) ∧
    (.mir 0x01#8 :: decodeSequence true (zeros 192)).filter (fun c => !bystander c) =
      decodeSequence true (zeros 192) ∧
    [Instr.start .a true, .nop, .push 0x00#8].filter (fun c => !bystander c) =
      .start .a true :: ((zeros 192).take ((0 : Fin 192).val + 1)).map Instr.push ∧
    ([] : List Byte).length ≠ 192 ∧ (decodeSequence true []).filter (fun c => !bystander c) = decodeSequence true [] :=
  ⟨legal_doneB, rfl, ⟨_, by rw [decodeBlock, if_pos (by simp [Config.blockBytes])]⟩,
    by
      intro c hc
      simp only [decodeSequence, List.mem_cons, List.mem_append, List.mem_map, List.not_mem_nil, or_false] at hc
      rcases hc with rfl | rfl | ⟨_, _, rfl⟩ | rfl <;> rfl,
    by simp [decodeSequence, bystander], by rw [show (0 : Fin 192).val + 1 = 1 from rfl, zeros_take_one 191]; decide,
    by decide, by decide⟩

theorem witness_EncodeSequenceComputesEncodeRows : LegalState State.reset ∧ State.reset.ph = .idle := ⟨legal_reset, rfl⟩

theorem witness_RoundTripOnTheDeviceSide : ∃ B, decodeBlock (zeros 192) false = some B :=
  ⟨_, by rw [decodeBlock, if_pos (by simp [Config.blockBytes])]⟩

theorem witness_DirectionBNeverFails :
    LegalState doneB ∧ doneB.ph = .idle ∧ ∀ c ∈ [Instr.push 0x01#8, .eol], c = .eol ∨ ∃ b, c = .push b :=
  ⟨legal_doneB, rfl, by simp⟩

end Sys2Proof.Tests
end

/-! # Proofs of the state family (10_state.md) -/

/-! ### From a word back to its command (30_encoding.md R72, R73) -/

namespace Sys2Proof

/-- A command of form N stands for no word but the one whose operand byte is 0. -/
theorem encode_of_decodePlain {op : BitVec 4} {imm : Byte} {i j : Instr} (hi : encode i = wordOf op 0x0#4 0x00#8)
    (h : decodePlain imm i = .command j) : encode j = wordOf op 0x0#4 imm := by
  unfold decodePlain at h
  split at h
  · rename_i himm
    cases h
    rw [himm, hi]
  · cases h

/-- An operand byte whose bits 7:2 are 0 is the one that its two low bits give. -/
theorem startOperand_of_low_bits {imm : Byte} (h : imm.extractLsb' 2 6 = 0#6) :
    startOperand (dirOfBit (imm.getLsbD 0)) (imm.getLsbD 1) = imm := by
  revert imm
  decide

theorem encode_of_decodeStart {imm : Byte} {i : Instr} (h : decodeStart imm = .command i) :
    encode i = wordOf 0x1#4 0x0#4 imm := by
  unfold decodeStart at h
  split at h
  · rename_i hlow
    cases h
    rw [encode, startOperand_of_low_bits hlow]
  · cases h

theorem encode_of_decodeRegister {n : Byte} {i : Instr} (h : decodeRegister n = .command i) :
    encode i = wordOf 0x6#4 0x0#4 n := by
  unfold decodeRegister at h
  repeat' split at h
  all_goals cases h
  all_goals subst n; rfl

/-- A word that decodes to a command is that command's own word. -/
theorem encode_of_decode {w : Word} {i : Instr} (h : decode w = .command i) : encode i = w := by
  rw [← wordOf_fields w] at h ⊢
  generalize opField w = op, zField w = z, immField w = imm at h ⊢
  simp only [decode, opField_wordOf, zField_wordOf, immField_wordOf] at h
  split at h
  · cases h
  rename_i hz
  rw [Decidable.not_not.mp hz]
  split at h
  · subst op; exact encode_of_decodePlain rfl h
  split at h
  · subst op; exact encode_of_decodeStart h
  split at h
  · cases h; subst op; rfl
  split at h
  · subst op; exact encode_of_decodePlain rfl h
  split at h
  · subst op; exact encode_of_decodePlain rfl h
  split at h
  · subst op; exact encode_of_decodePlain rfl h
  split at h
  · subst op; exact encode_of_decodeRegister h
  split at h
  · cases h; subst op; rfl
  · cases h

end Sys2Proof

namespace Sys2Proof.Machine

/-! ### The status word and the wires (10_state.md R32, R33) -/

theorem errBits_eq_zero_iff (e : ErrCode) : errBits e = 0#3 ↔ e = .none := by
  cases e <;> decide

theorem doneWire_eq (s : State) : doneWire s = s.done := rfl

theorem errWire_iff (s : State) : errWire s = true ↔ s.err ≠ .none := by
  rw [errWire, bne_iff_ne, ne_eq, errBits_eq_zero_iff]

theorem dirBit_eq_decide (d : Dir) : dirBit d = decide (d = .b) := by
  cases d <;> rfl

theorem status_getLsbD_phase (s : State) {k : Nat} (hk : k < 2) :
    (status s).getLsbD k = (phaseBits s.ph).getLsbD k := by
  have h16 : k < 16 := by omega
  simp only [status, BitVec.getLsbD_setWidth, BitVec.getLsbD_append, hk, h16, if_true, decide_true, Bool.true_and]

theorem status_getLsbD_done (s : State) : (status s).getLsbD 2 = s.done := by
  simp only [status, BitVec.getLsbD_setWidth, BitVec.getLsbD_append]
  simp

theorem status_getLsbD_dir (s : State) : (status s).getLsbD 3 = decide (s.dir = .b) := by
  simp only [status, dirField, dirBit_eq_decide, BitVec.getLsbD_setWidth, BitVec.getLsbD_append]
  simp

theorem status_getLsbD_inv (s : State) : (status s).getLsbD 4 = s.inv := by
  simp only [status, BitVec.getLsbD_setWidth, BitVec.getLsbD_append]
  simp

/-- From bit 5 on stands `ERR`, and after its three bits nothing. -/
theorem status_getLsbD_error (s : State) (k : Nat) : (status s).getLsbD (5 + k) = (errBits s.err).getLsbD k := by
  have h0 : ¬5 + k < 2 := by omega
  have h1 : ¬5 + k - 2 < 1 := by omega
  have h2 : ¬5 + k - 2 - 1 < 1 := by omega
  have h3 : ¬5 + k - 2 - 1 - 1 < 1 := by omega
  have hk : 5 + k - 2 - 1 - 1 - 1 = k := by omega
  simp only [status, BitVec.getLsbD_setWidth, BitVec.getLsbD_append, h0, h1, h2, h3, hk, if_false]
  by_cases hlt : k < 3
  · simp [show 5 + k < 16 by omega]
  · simp [BitVec.getLsbD_of_ge _ k (Nat.le_of_not_lt hlt)]

/-- A block at reset answers 0x0000 as `STATUS` and drives both wires low. -/
theorem views_of_atReset {s : State} (h : AtReset s) :
    status s = 0x0000#16 ∧ doneWire s = false ∧ errWire s = false := by
  obtain ⟨ph, dir, inv, done, err, -⟩ := h
  refine ⟨?_, done, ?_⟩
  · rw [status, dirField, ph, dir, inv, done, err]; rfl
  · rw [errWire, err]; rfl

theorem atReset_reset : AtReset State.reset := ⟨rfl, rfl, rfl, rfl, rfl, rfl, rfl, rfl, rfl⟩

theorem atReset_toReset (s : State) : AtReset (toReset s) := ⟨rfl, rfl, rfl, rfl, rfl, rfl, rfl, rfl, rfl⟩

theorem atReset_respondStatus {s : State} (h : AtReset s) : AtReset (respondStatus s) := h

theorem step_reset {s : State} {rest : List PortEvent} (h : s.input = .reset :: rest) :
    step s = .next (toReset (takeEvent s)) := by
  rw [step, h]

theorem exec_rst (s : State) : exec .rst s = .next (respondStatus (toReset s)) := rfl

/-- Settles O9: `done` is the field itself, and `err` is 0 exactly at error code 0. -/
theorem wiresCopyTheState : Obligations.WiresCopyTheState :=
  fun s => ⟨doneWire_eq s, errWire_iff s⟩

/-- Settles O8: the fields bit by bit, and the eight example states evaluated. -/
theorem statusWordHasTheStatedLayout : Obligations.StatusWordHasTheStatedLayout := by
  refine ⟨fun s => ⟨?phase, status_getLsbD_done s, status_getLsbD_dir s, status_getLsbD_inv s, ?error, ?zero⟩, ?examples⟩
  case phase =>
    refine BitVec.eq_of_getLsbD_eq fun k hk => ?_
    rw [BitVec.getLsbD_extractLsb', Nat.zero_add, status_getLsbD_phase s hk]
    simp [hk]
  case error =>
    refine BitVec.eq_of_getLsbD_eq fun k hk => ?_
    rw [BitVec.getLsbD_extractLsb', status_getLsbD_error]
    simp [hk]
  case zero =>
    refine BitVec.eq_of_getLsbD_eq fun k hk => ?_
    rw [BitVec.getLsbD_extractLsb', show 8 + k = 5 + (3 + k) by omega, status_getLsbD_error]
    simp
  case examples => decide

/-- Settles O6: all three states are at reset, and `views_of_atReset` says what such a state shows. -/
theorem resetLeavesEveryFieldAtItsStatedValue : Obligations.ResetLeavesEveryFieldAtItsStatedValue := by
  obtain ⟨hstatus, hdone, herr⟩ := views_of_atReset atReset_reset
  refine ⟨atReset_reset, hstatus, hdone, herr, fun s rest hin => ?_, fun s => ?_⟩
  · have ht := atReset_toReset (takeEvent s)
    exact ⟨_, step_reset hin, ht, views_of_atReset ht⟩
  · have ht := atReset_respondStatus (atReset_toReset s)
    exact ⟨_, exec_rst s, ht, views_of_atReset ht⟩

/-! ### Who writes `DIR` and `INV` (10_state.md R25, R26) -/

/-- A command keeps `DIR` and `INV` unless it is `START` in `IDLE` or `RST`. -/
theorem CommandEffect.dir_inv {s t : State} {i : Instr} (h : CommandEffect s i t) :
    (t.dir = s.dir ∧ t.inv = s.inv) ∨
    (s.ph = .idle ∧ i = .start t.dir t.inv) ∨
    (i = .rst ∧ t.dir = .a ∧ t.inv = false) := by
  cases h with
  | reset => exact .inr (.inr ⟨rfl, rfl, rfl⟩)
  | opened d v hp => exact .inr (.inl ⟨hp, rfl⟩)
  | finishedB => exact .inl (by simp)
  | _ => exact .inl ⟨rfl, rfl⟩

theorem takeReserved_dir_inv (s : State) : (takeReserved s).dir = s.dir ∧ (takeReserved s).inv = s.inv := by
  unfold takeReserved
  split <;> exact ⟨rfl, rfl⟩

/-- Settles O31, by the cases of a step and of a command's effect. -/
theorem directionAndPolarityAreFixedByStart : Obligations.DirectionAndPolarityAreFixedByStart := by
  intro s t h
  rcases step_cases s with ⟨-, e⟩ | ⟨rest, hin, e⟩ | ⟨w, rest, i, hin, hd, e⟩ | ⟨w, rest, why, -, -, e⟩
  · cases e.symm.trans h
    exact .inl ⟨rfl, rfl⟩
  · cases e.symm.trans h
    exact .inr (.inr ⟨_, rest, hin, rfl, rfl, rfl⟩)
  · rcases (exec_effect (e ▸ h)).dir_inv with hkept | ⟨hp, rfl⟩ | ⟨rfl, hdir, hinv⟩
    · exact .inl hkept
    · exact .inr (.inl ⟨_, _, rest, by rw [encode_of_decode hd, hin], hp, rfl, rfl⟩)
    · exact .inr (.inr ⟨_, rest, hin, by simp [resetsBlock, hd], hdir, hinv⟩)
  · cases e.symm.trans h
    exact .inl (takeReserved_dir_inv (takeEvent s))

/-! ### What a legal state gives in an open frame (10_state.md R34) -/

theorem LegalState.err_of_not_fault {s : State} (h : LegalState s) (hp : s.ph ≠ .fault) : s.err = .none :=
  Decidable.not_not.mp fun he => hp (h.spec.fault_iff_error.mpr he)

theorem LegalState.err_of_run {s : State} (h : LegalState s) (hp : s.ph = .run) : s.err = .none :=
  h.err_of_not_fault (by simp [hp])

theorem LegalState.done_of_run {s : State} (h : LegalState s) (hp : s.ph = .run) : s.done = false := by
  by_contra hd
  have := (h.spec.done_frame (Bool.eq_true_of_not_eq_false hd)).1
  rw [hp] at this
  cases this

/-- No byte received: the whole line buffer is 0 (R34 item 6). -/
theorem LegalState.lb_of_wp_zero {s : State} (h : LegalState s) (hw : s.wp = 0) : s.lb = clearedLine := by
  apply Vector.ext
  intro k hk
  have hs := h.spec.not_received ⟨k, hk⟩ (by simp [hw])
  have hc := clearedLine_get ⟨k, hk⟩
  exact hs.trans hc.symm

/-! ### Building a legal state, phase by phase -/

/-- A state at reset is legal. -/
theorem legalState_of_atReset {s : State} (h : AtReset s) : LegalState s := by
  have hreset := h
  obtain ⟨hp, -, -, hd, he, -, -, hlb, hout⟩ := h
  exact {
    spec := {
      fault_iff_error := by simp [hp, he]
      done_frame := by simp [hd]
      run_a := by simp [hp]
      run_b := by simp [hp]
      not_received := fun i _ => by rw [hlb]; exact clearedLine_get i
      idle_at_reset := fun _ _ => hreset }
    full_frame_closed := by simp [hp]
    out_bounded := by simp [hout] }

/-- In an open frame the counters bound `OUT`, so the bound of R31 need not be shown. -/
theorem legalState_of_run {s : State} (hp : s.ph = .run) (he : s.err = .none) (hd : s.done = false)
    (ha : s.dir = .a → s.wp.val ≤ 5 ∧ s.out.length = 8 * s.ln.val) (hb : s.dir = .b → s.out.length = 6 * s.ln.val)
    (hlb : ∀ i : Fin 6, s.wp.val ≤ i.val → s.lb[i] = 0x00#8) (hfull : s.ln = 32 → s.wp = 0) : LegalState s where
  spec := {
    fault_iff_error := by simp [hp, he]
    done_frame := by simp [hd]
    run_a := fun _ => ha
    run_b := fun _ => hb
    not_received := hlb
    idle_at_reset := by simp [hp] }
  full_frame_closed := fun _ => hfull
  out_bounded := by
    have := s.ln.isLt
    cases hdir : s.dir with
    | a => have := (ha hdir).2; simp only [frameOutput]; omega
    | b => have := hb hdir; simp only [frameOutput]; omega

/-! ### Every operation keeps the invariant -/

theorem legalState_respond {s : State} (v : Word) (h : LegalState s) : LegalState (respond v s) :=
  legalState_of_same_block h rfl rfl rfl rfl rfl rfl rfl rfl rfl

theorem legalState_respondStatus {s : State} (h : LegalState s) : LegalState (respondStatus s) :=
  legalState_respond _ h

theorem legalState_takeEvent {s : State} (h : LegalState s) : LegalState (takeEvent s) :=
  legalState_of_same_block h rfl rfl rfl rfl rfl rfl rfl rfl rfl

theorem legalState_awaitCommand {s : State} (h : LegalState s) : LegalState (awaitCommand s) :=
  legalState_of_same_block h rfl rfl rfl rfl rfl rfl rfl rfl rfl

theorem legalState_raiseError {s : State} {code : ErrCode} (hc : code ≠ .none) (h : LegalState s) :
    LegalState (raiseError code s) where
  spec := {
    fault_iff_error := by simp [hc]
    done_frame := by simp
    run_a := by simp
    run_b := by simp
    not_received := h.spec.not_received
    idle_at_reset := by simp }
  full_frame_closed := by simp
  out_bounded := h.out_bounded

theorem legalState_takeReserved {s : State} (h : LegalState s) : LegalState (takeReserved s) := by
  unfold takeReserved
  split
  · exact legalState_respondStatus h
  all_goals exact legalState_respondStatus (legalState_raiseError (by simp) h)

theorem legalState_openFrame {s : State} (d : Dir) (v : Bool) (h : LegalState s) (hp : s.ph = .idle) :
    LegalState (openFrame d v s) := by
  have herr : s.err = .none := h.err_of_not_fault (by simp [hp])
  exact legalState_of_run rfl herr rfl (by simp) (by simp) (fun i _ => clearedLine_get i) (by simp)

/-- A byte stored in `LB[WP]`: the positions after it are still 0. -/
theorem legalState_store {s : State} (b : Byte) (h : LegalState s) (hp : s.ph = .run) (hl : s.ln ≠ 32)
    (hw : s.wp.val < 6) (ha : s.dir = .a → s.wp.val < 5) :
    LegalState { s with lb := s.lb.set s.wp.val b hw, wp := nextWp s.wp } := by
  have hwp := nextWp_val_of_lt hw
  refine legalState_of_run hp (h.err_of_run hp) (h.done_of_run hp) (fun hd => ⟨?_, (h.spec.run_a hp hd).2⟩)
    (h.spec.run_b hp) (fun i hi => ?_) (fun e => absurd e hl)
  · have := ha hd
    show (nextWp s.wp).val ≤ 5
    omega
  · have hi : (nextWp s.wp).val ≤ i.val := hi
    have hne : s.wp.val ≠ i.val := by omega
    exact (Vector.getElem_set_ne hw i.isLt hne).trans (h.spec.not_received i (by omega))

/-- A completed device line: eight bytes more and one line more (41_line_datapath.md R110). What the line buffer held does
not matter. -/
theorem legalState_completeLineA {s : State} (hp : s.ph = .run) (hd : s.dir = .a) (hl : s.ln ≠ 32)
    (he : s.err = .none) (hdone : s.done = false) (hout : s.out.length = 8 * s.ln.val) :
    LegalState (completeLineA s) := by
  have hln := nextLn_val_of_lt (ln_lt_32 hl)
  refine legalState_of_run hp he hdone (fun _ => ⟨by simp, ?_⟩) (by simp [hd]) (fun i _ => clearedLine_get i) (by simp)
  rw [completeLineA_out, completeLineA_ln, List.length_append, hln, hout]
  simp only [List.length_cons, List.length_nil]
  omega

/-- A completed row: six bytes more and one line more (R111). -/
theorem legalState_completeLineB {s : State} (h : LegalState s) (hp : s.ph = .run) (hd : s.dir = .b) (hl : s.ln ≠ 32) :
    LegalState (completeLineB s) := by
  have hln := nextLn_val_of_lt (ln_lt_32 hl)
  refine legalState_of_run hp (h.err_of_run hp) (h.done_of_run hp) (by simp [hd]) (fun _ => ?_)
    (fun i _ => clearedLine_get i) (by simp)
  rw [completeLineB_out, completeLineB_ln, List.length_append, hln, h.spec.run_b hp hd]
  simp only [List.length_cons, List.length_nil]
  omega

theorem legalState_completeLinesB {n : Nat} {s : State} (h : LegalState s) (hp : s.ph = .run) (hd : s.dir = .b)
    (hn : s.ln.val + n ≤ 32) : LegalState (completeLinesB n s) := by
  induction n generalizing s with
  | zero => exact h
  | succ n ih =>
    have hlt : s.ln.val < 32 := by omega
    have hl : s.ln ≠ 32 := fun e => by simp [e] at hlt
    have hln : (completeLineB s).ln.val = s.ln.val + 1 := nextLn_val_of_lt hlt
    exact ih (legalState_completeLineB h hp hd hl) hp hd (by omega)

theorem legalState_closeOpenRow {s : State} (h : LegalState s) (hp : s.ph = .run) (hd : s.dir = .b) :
    LegalState (closeOpenRow s) := by
  unfold closeOpenRow
  split
  · rename_i hopen
    exact legalState_completeLineB h hp hd (fun e => by simp [e] at hopen)
  · exact h

/-- A frame may end with success, in either direction, once its 32 lines are complete. -/
theorem legalState_finishFrame {s : State} (h : LegalState s) (hp : s.ph = .run) (hl : s.ln = 32) :
    LegalState (finishFrame s) := by
  have hw : s.wp = 0 := h.full_frame_closed hp hl
  have herr : s.err = .none := h.err_of_run hp
  have hout : s.out.length = frameOutput s.dir := by
    cases hd : s.dir with
    | a => rw [(h.spec.run_a hp hd).2, hl]; rfl
    | b => rw [h.spec.run_b hp hd, hl]; rfl
  exact {
    spec := {
      fault_iff_error := by simp [herr]
      done_frame := fun _ => ⟨rfl, herr, hl, hw, h.lb_of_wp_zero hw, hout⟩
      run_a := by simp
      run_b := by simp
      not_received := h.spec.not_received
      idle_at_reset := by simp }
    full_frame_closed := by simp
    out_bounded := h.out_bounded }

/-- `END` of Direction B: the rows are completed up to 32, then the frame ends (42_frame_control.md R132). -/
theorem legalState_endB {s : State} (h : LegalState s) (hp : s.ph = .run) (hd : s.dir = .b) : LegalState (endB s) := by
  have hrow := legalState_closeOpenRow h hp hd
  have hlt := (closeOpenRow s).ln.isLt
  have hpad := legalState_completeLinesB (n := 32 - (closeOpenRow s).ln.val) hrow (by simp [hp]) (by simp [hd]) (by omega)
  exact legalState_finishFrame hpad (by simp [hp]) (endB_ln s)

/-! ### Every step keeps the invariant, and every run -/

/-- What a command does to a legal state is legal. -/
theorem CommandEffect.keeps_legalState {s t : State} {i : Instr} (h : LegalState s) (he : CommandEffect s i t) :
    LegalState t := by
  cases he with
  | bystander v => exact legalState_respond v h
  | reset => exact legalState_respondStatus (legalState_of_atReset (atReset_toReset s))
  | ignored => exact legalState_respondStatus h
  | notPermitted => exact legalState_respondStatus (legalState_raiseError (by simp) h)
  | opened d v hp => exact legalState_respondStatus (legalState_openFrame d v h hp)
  | tooLong => exact legalState_respondStatus (legalState_raiseError (by simp) h)
  | stored b hp hl hw hd => exact legalState_respondStatus (legalState_store b h hp hl hw hd)
  | lineA b hp hd hl hw =>
    exact legalState_respondStatus
      (legalState_completeLineA hp hd hl (h.err_of_run hp) (h.done_of_run hp) (h.spec.run_a hp hd).2)
  | lineFull b hp hd hl hw =>
    have := (h.spec.run_a hp hd).1
    simp [hw] at this
  | dropped => exact legalState_respondStatus h
  | eolDropped => exact legalState_respondStatus h
  | lineB hp hd hl => exact legalState_respondStatus (legalState_completeLineB h hp hd hl)
  | finishedA hp hd hl => exact legalState_respondStatus (legalState_finishFrame h hp hl)
  | tooShort => exact legalState_respondStatus (legalState_raiseError (by simp) h)
  | finishedB hp hd => exact legalState_respondStatus (legalState_endB h hp hd)

theorem step_keeps_legalState {s t : State} (h : LegalState s) (hs : step s = .next t) : LegalState t := by
  have htaken := legalState_takeEvent h
  rcases step_cases s with ⟨-, e⟩ | ⟨-, -, e⟩ | ⟨-, -, i, -, -, e⟩ | ⟨-, -, -, -, -, e⟩
  · cases e.symm.trans hs
    exact legalState_awaitCommand h
  · cases e.symm.trans hs
    exact legalState_of_atReset (atReset_toReset _)
  · exact (exec_effect (e ▸ hs)).keeps_legalState htaken
  · cases e.symm.trans hs
    exact legalState_takeReserved htaken

/-- What every step keeps, every run keeps. -/
theorem run_keeps {P : State → Prop} (hstep : ∀ s t, P s → step s = .next t → P t) {k : Nat} {s t : State} (h : P s)
    (hr : Sys2Proof.core.run k s = .next t) : P t := by
  induction k generalizing s with
  | zero => cases hr; exact h
  | succ k ih =>
    obtain ⟨u, hs, hr⟩ := run_succ_inv hr
    exact ih (hstep s u h hs) hr

theorem legalState_of_reached {evs : List PortEvent} {k : Nat} {s : State} (h : Reached evs k s) : LegalState s :=
  run_keeps (fun _ _ => step_keeps_legalState) (legalState_of_atReset (s := present evs State.reset) atReset_reset) h

/-- Settles O37, by the inductive invariant `LegalState`. -/
theorem reachableStatesMeetTheSpecsInvariants : Obligations.ReachableStatesMeetTheSpecsInvariants :=
  fun _ _ s h => ⟨⟨Nat.le_of_lt_succ s.wp.isLt, Nat.le_of_lt_succ s.ln.isLt⟩, (legalState_of_reached h).spec⟩

end Sys2Proof.Machine

/-! # Proofs of the encoding family (30_encoding.md) -/

/-! ### What `decode` answers, by the fields of the word (R70, R73) -/

namespace Sys2Proof

theorem decode_of_zField_ne {w : Word} (h : zField w ≠ 0x0#4) : decode w = .reserved .zNotZero := by
  rw [decode, if_pos h]

@[simp] theorem decode_wordOf_nop (imm : Byte) : decode (wordOf 0x0#4 0x0#4 imm) = decodePlain imm .nop := by
  simp [decode]

@[simp] theorem decode_wordOf_start (imm : Byte) : decode (wordOf 0x1#4 0x0#4 imm) = decodeStart imm := by
  simp [decode]

@[simp] theorem decode_wordOf_push (imm : Byte) : decode (wordOf 0x2#4 0x0#4 imm) = .command (.push imm) := by
  simp [decode]

@[simp] theorem decode_wordOf_eol (imm : Byte) : decode (wordOf 0x3#4 0x0#4 imm) = decodePlain imm .eol := by
  simp [decode]

@[simp] theorem decode_wordOf_endFrame (imm : Byte) :
    decode (wordOf 0x4#4 0x0#4 imm) = decodePlain imm .endFrame := by
  simp [decode]

@[simp] theorem decode_wordOf_rst (imm : Byte) : decode (wordOf 0x5#4 0x0#4 imm) = decodePlain imm .rst := by
  simp [decode]

@[simp] theorem decode_wordOf_rd (imm : Byte) : decode (wordOf 0x6#4 0x0#4 imm) = decodeRegister imm := by
  simp [decode]

@[simp] theorem decode_wordOf_mir (imm : Byte) : decode (wordOf 0x7#4 0x0#4 imm) = .command (.mir imm) := by
  simp [decode]

theorem decode_wordOf_undefined {op : BitVec 4} (h : 8 ≤ op.toNat) (imm : Byte) :
    decode (wordOf op 0x0#4 imm) = .reserved .opUndefined := by
  have hne : ∀ n : BitVec 4, n.toNat < 8 → op ≠ n := fun n hn e => by subst e; omega
  simp [decode, hne]

/-- The opcodes that R71 defines are eight, and the others lie above them. -/
theorem opcode_cases (op : BitVec 4) :
    8 ≤ op.toNat ∨ op = 0x0#4 ∨ op = 0x1#4 ∨ op = 0x2#4 ∨ op = 0x3#4 ∨ op = 0x4#4 ∨ op = 0x5#4 ∨ op = 0x6#4 ∨
      op = 0x7#4 := by
  revert op; decide

/-! ### Commands and their words (R71, R72) -/

/-- The two operand bits of `START` are read back as they were written. -/
theorem decodeStart_startOperand (d : Dir) (v : Bool) : decodeStart (startOperand d v) = .command (.start d v) := by
  cases d <;> cases v <;> rfl

/-- The numbers of the ten registers (10_state.md R36). -/
def registerNumbers : List Byte :=
  [0x00#8, 0x01#8, 0x02#8, 0x03#8, 0x10#8, 0x11#8, 0x12#8, 0x13#8, 0x14#8, 0x15#8]

theorem decodeRegister_of_not_mem {n : Byte} (h : n ∉ registerNumbers) :
    decodeRegister n = .reserved .noSuchRegister := by
  simp only [registerNumbers, List.mem_cons, List.not_mem_nil, or_false, not_or] at h
  simp only [decodeRegister, h, if_false]

theorem decodeRegister_of_mem {n : Byte} (h : n ∈ registerNumbers) :
    ∃ i, decodeRegister n = .command i ∧ i.wf = true := by
  simp only [registerNumbers, List.mem_cons, List.not_mem_nil, or_false] at h
  rcases h with rfl | rfl | rfl | rfl | rfl | rfl | rfl | rfl | rfl | rfl <;> exact ⟨_, rfl, rfl⟩

theorem decodeRegister_wf {n : Byte} {i : Instr} (h : decodeRegister n = .command i) : i.wf = true := by
  by_cases hn : n ∈ registerNumbers
  · obtain ⟨j, hj, hwf⟩ := decodeRegister_of_mem hn
    cases hj.symm.trans h
    exact hwf
  · cases (decodeRegister_of_not_mem hn).symm.trans h

/-- Every well-formed command is read back from its own word. -/
theorem decode_encode {i : Instr} (h : i.wf = true) : decode (encode i) = .command i := by
  cases i with
  | nop => rfl
  | start d v => rw [encode, decode_wordOf_start, decodeStart_startOperand]
  | push b => rw [encode, decode_wordOf_push]
  | eol => rfl
  | endFrame => rfl
  | rst => rfl
  | rdCtl r | rdLbLow r | rdLbHigh r => revert h; cases r <;> decide
  | mir b => rw [encode, decode_wordOf_mir]

theorem wf_of_decode {w : Word} {i : Instr} (h : decode w = .command i) : i.wf = true := by
  rw [← encode_of_decode h] at h
  cases i with
  | rdCtl r | rdLbLow r | rdLbHigh r => rw [encode, decode_wordOf_rd] at h; exact decodeRegister_wf h
  | _ => rfl

/-- A word decodes to a command exactly when the command is well formed and the word is its encoding. -/
theorem decode_eq_command_iff {w : Word} {i : Instr} : decode w = .command i ↔ i.wf = true ∧ encode i = w :=
  ⟨fun h => ⟨wf_of_decode h, encode_of_decode h⟩, fun ⟨hi, hw⟩ => hw ▸ decode_encode hi⟩

/-! ### Words under a row's mask (R71) -/

theorem opField_and (c d : Word) : opField (c &&& d) = opField c &&& opField d := BitVec.extractLsb'_and
theorem zField_and (c d : Word) : zField (c &&& d) = zField c &&& zField d := BitVec.extractLsb'_and
theorem immField_and (c d : Word) : immField (c &&& d) = immField c &&& immField d := BitVec.extractLsb'_and

/-- Every row's mask covers `OP` and `Z` whole, so a word meets the row exactly when it has the row's `OP` and `Z` and its
`IMM` meets the low byte of the mask. -/
theorem and_wordOf_eq_iff {c : Word} {op z : BitVec 4} {m v : Byte} :
    c &&& wordOf 0xF#4 0xF#4 m = wordOf op z v ↔ opField c = op ∧ zField c = z ∧ immField c &&& m = v := by
  have hall : ∀ x : BitVec 4, x &&& 0xF#4 = x := by decide
  constructor
  · intro h
    have hop := congrArg opField h
    have hz := congrArg zField h
    have himm := congrArg immField h
    simp only [opField_and, zField_and, immField_and, opField_wordOf, zField_wordOf, immField_wordOf, hall]
      at hop hz himm
    exact ⟨hop, hz, himm⟩
  · rintro ⟨hop, hz, himm⟩
    apply word_ext
    · rw [opField_and, opField_wordOf, opField_wordOf, hall, hop]
    · rw [zField_and, zField_wordOf, zField_wordOf, hall, hz]
    · rw [immField_and, immField_wordOf, immField_wordOf, himm]

/-- A command without operand has one word, which its row's mask fixes whole. -/
theorem decode_plain_iff {w : Word} {i : Instr} (hi : i.wf = true) :
    decode w = .command i ↔ w &&& 0xFFFF#16 = encode i := by
  rw [decode_eq_command_iff, show w &&& 0xFFFF#16 = w from BitVec.and_allOnes]
  exact ⟨fun h => h.2.symm, fun h => ⟨hi, h.symm⟩⟩

/-- A row of the opcode map: its commands `row a` are read from exactly the words that carry the row's match under its mask.
One way the words of the commands do carry it; the other way it is enough to read the words of the row's own `OP`, with `Z`
zero, whose `IMM` meets the mask. -/
theorem decode_row_iff {α : Type} {row : α → Instr} {op : BitVec 4} {m v : Byte}
    (hpattern : ∀ a, rowPattern (row a) = (wordOf op 0x0#4 v, wordOf 0xF#4 0xF#4 m))
    (hcarries : ∀ a, Laws.EncodesItsRow.Statement (row a))
    (hread : ∀ imm, imm &&& m = v → ∃ a, decode (wordOf op 0x0#4 imm) = .command (row a)) (w : Word) :
    (∃ a, decode w = .command (row a)) ↔ w &&& wordOf 0xF#4 0xF#4 m = wordOf op 0x0#4 v := by
  constructor
  · rintro ⟨a, h⟩
    obtain ⟨hwf, rfl⟩ := decode_eq_command_iff.mp h
    simpa only [hpattern] using hcarries a hwf
  · intro h
    obtain ⟨hop, hz, himm⟩ := and_wordOf_eq_iff.mp h
    rw [← wordOf_fields w, hop, hz]
    exact hread _ himm

theorem decode_start_iff (w : Word) : (∃ d v, decode w = .command (.start d v)) ↔ w &&& 0xFFFC#16 = 0x1000#16 := by
  have hlow : ∀ imm : Byte, imm &&& 0xFC#8 = 0x00#8 → imm.extractLsb' 2 6 = 0#6 := by decide
  have hrow := decode_row_iff (row := fun a : Dir × Bool => .start a.1 a.2) (op := 0x1#4) (m := 0xFC#8) (v := 0x00#8)
    (fun _ => rfl) (fun a => Laws.EncodesItsRow.start a.1 a.2)
    (fun imm h => ⟨(_, _), by rw [decode_wordOf_start, decodeStart, if_pos (hlow imm h)]⟩) w
  rw [Prod.exists] at hrow
  exact hrow

theorem decode_push_iff (w : Word) : (∃ b, decode w = .command (.push b)) ↔ w &&& 0xFF00#16 = 0x2000#16 :=
  decode_row_iff (op := 0x2#4) (m := 0x00#8) (v := 0x00#8) (fun _ => rfl) Laws.EncodesItsRow.push
    (fun imm _ => ⟨imm, decode_wordOf_push imm⟩) w

theorem decode_mir_iff (w : Word) : (∃ b, decode w = .command (.mir b)) ↔ w &&& 0xFF00#16 = 0x7000#16 :=
  decode_row_iff (op := 0x7#4) (m := 0x00#8) (v := 0x00#8) (fun _ => rfl) Laws.EncodesItsRow.mir
    (fun imm _ => ⟨imm, decode_wordOf_mir imm⟩) w

theorem decode_rdCtl_iff (w : Word) : (∃ r, decode w = .command (.rdCtl r)) ↔ w &&& 0xFFFC#16 = 0x6000#16 := by
  have hnum : ∀ n : Byte, n &&& 0xFC#8 = 0x00#8 → n = 0x00#8 ∨ n = 0x01#8 ∨ n = 0x02#8 ∨ n = 0x03#8 := by decide
  refine decode_row_iff (op := 0x6#4) (m := 0xFC#8) (v := 0x00#8) (fun _ => rfl) Laws.EncodesItsRow.rdCtl
    (fun imm h => ?_) w
  rcases hnum imm h with rfl | rfl | rfl | rfl <;> exact ⟨_, rfl⟩

theorem decode_rdLbLow_iff (w : Word) : (∃ r, decode w = .command (.rdLbLow r)) ↔ w &&& 0xFFFC#16 = 0x6010#16 := by
  have hnum : ∀ n : Byte, n &&& 0xFC#8 = 0x10#8 → n = 0x10#8 ∨ n = 0x11#8 ∨ n = 0x12#8 ∨ n = 0x13#8 := by decide
  refine decode_row_iff (op := 0x6#4) (m := 0xFC#8) (v := 0x10#8) (fun _ => rfl) Laws.EncodesItsRow.rdLbLow
    (fun imm h => ?_) w
  rcases hnum imm h with rfl | rfl | rfl | rfl <;> exact ⟨_, rfl⟩

theorem decode_rdLbHigh_iff (w : Word) :
    (∃ r, decode w = .command (.rdLbHigh r)) ↔ w &&& 0xFFFE#16 = 0x6014#16 := by
  have hnum : ∀ n : Byte, n &&& 0xFE#8 = 0x14#8 → n = 0x14#8 ∨ n = 0x15#8 := by decide
  refine decode_row_iff (op := 0x6#4) (m := 0xFE#8) (v := 0x14#8) (fun _ => rfl) Laws.EncodesItsRow.rdLbHigh
    (fun imm h => ?_) w
  rcases hnum imm h with rfl | rfl <;> exact ⟨_, rfl⟩

/-! ### Operand bytes that make a word reserved (R72, R74) -/

theorem decodePlain_reserved_iff {imm : Byte} {i : Instr} :
    (∃ why, decodePlain imm i = .reserved why) ↔ imm ≠ 0x00#8 := by
  unfold decodePlain
  split <;> simp_all

theorem decodeStart_reserved_iff {imm : Byte} :
    (∃ why, decodeStart imm = .reserved why) ↔ imm.extractLsb' 2 6 ≠ 0#6 := by
  unfold decodeStart
  split <;> simp_all

theorem decodeRegister_reserved_iff {n : Byte} : (∃ why, decodeRegister n = .reserved why) ↔ n ∉ registerNumbers := by
  constructor
  · rintro ⟨why, h⟩ hn
    obtain ⟨i, hi, -⟩ := decodeRegister_of_mem hn
    cases hi.symm.trans h
  · exact fun hn => ⟨_, decodeRegister_of_not_mem hn⟩

/-! ### Counting the commands (R71) -/

/-- A count over `a` blocks of `b` numbers, block by block. -/
theorem countP_range_mul (p : Nat → Bool) (a b : Nat) :
    (List.range (a * b)).countP p =
      ((List.range a).map fun i => (List.range b).countP fun j => p (i * b + j)).sum := by
  induction a with
  | zero => simp
  | succ a ih =>
    rw [Nat.succ_mul, List.range_add, List.countP_append, ih, List.range_succ, List.map_append, List.sum_append,
      List.countP_map]
    simp [Function.comp_def]

/-- Whether a word was read as a command. -/
def Decoded.isCommand : Decoded → Bool
  | .command _ => true
  | .reserved _ => false

theorem isSome_decodeTableWord (nbits w : Nat) :
    (decodeTableWord nbits w).isSome = (decode (tableWord nbits w)).isCommand := by
  unfold decodeTableWord
  cases decode (tableWord nbits w) <;> rfl

theorem Decoded.isCommand_iff {d : Decoded} : d.isCommand = true ↔ ¬∃ why, d = .reserved why := by
  cases d <;> simp [Decoded.isCommand]

/-- Of the 256 operand bytes, as many make a command as the list of those that do is long. -/
theorem countP_isCommand {L : List Byte} (hL : L.Nodup) {f : Byte → Decoded}
    (hf : ∀ imm, (∃ why, f imm = .reserved why) ↔ imm ∉ L) :
    ((List.range 256).countP fun j => (f (BitVec.ofNat 8 j)).isCommand) = L.length := by
  have hperm : ((List.range 256).filter fun j => (f (BitVec.ofNat 8 j)).isCommand).Perm (L.map BitVec.toNat) := by
    refine (List.perm_ext_iff_of_nodup (List.nodup_range.filter _)
      (hL.map fun _ _ => BitVec.eq_of_toNat_eq)).mpr fun j => ?_
    simp only [List.mem_filter, List.mem_range, Decoded.isCommand_iff, hf, Decidable.not_not, List.mem_map]
    constructor
    · rintro ⟨hj, hmem⟩
      exact ⟨_, hmem, by rw [BitVec.toNat_ofNat, Nat.mod_eq_of_lt hj]⟩
    · rintro ⟨imm, hmem, rfl⟩
      exact ⟨imm.isLt, by rwa [BitVec.ofNat_toNat, BitVec.setWidth_eq]⟩
  rw [List.countP_eq_length_filter, hperm.length_eq, List.length_map]

/-- How many of the 256 words with this `OP` and this `Z` are commands. -/
def commandsWith (op z : BitVec 4) : Nat :=
  (List.range 256).countP fun j => (decode (wordOf op z (BitVec.ofNat 8 j))).isCommand

theorem commandsWith_of_z_ne (op : BitVec 4) {z : BitVec 4} (h : z ≠ 0x0#4) : commandsWith op z = 0 := by
  refine List.countP_eq_zero.mpr fun j _ => ?_
  rw [decode_of_zField_ne (by rwa [zField_wordOf])]
  exact Bool.false_ne_true

/-- The summands of R71's count, `OP` by `OP`. -/
theorem commandsWith_zero (op : BitVec 4) :
    commandsWith op 0x0#4 = [1, 4, 256, 1, 1, 1, 10, 256].getD op.toNat 0 := by
  have hplain (i : Instr) : ((List.range 256).countP fun j => (decodePlain (BitVec.ofNat 8 j) i).isCommand) = 1 :=
    countP_isCommand (L := [0x00#8]) (f := (decodePlain · i)) (by decide) fun imm => by
      rw [decodePlain_reserved_iff, List.mem_singleton]
  have hlow : ∀ imm : Byte, imm.extractLsb' 2 6 ≠ 0#6 ↔ imm ∉ [0x00#8, 0x01#8, 0x02#8, 0x03#8] := by decide
  have hstart : ((List.range 256).countP fun j => (decodeStart (BitVec.ofNat 8 j)).isCommand) = 4 :=
    countP_isCommand (f := decodeStart) (by decide) fun imm => decodeStart_reserved_iff.trans (hlow imm)
  have hread : ((List.range 256).countP fun j => (decodeRegister (BitVec.ofNat 8 j)).isCommand) = 10 :=
    countP_isCommand (f := decodeRegister) (by decide) fun _ => decodeRegister_reserved_iff
  unfold commandsWith
  rcases opcode_cases op with hop | rfl | rfl | rfl | rfl | rfl | rfl | rfl | rfl
  · simp [decode_wordOf_undefined hop, Decoded.isCommand, hop]
  · simp only [decode_wordOf_nop]; exact hplain .nop
  · simp only [decode_wordOf_start]; exact hstart
  · simp [Decoded.isCommand]
  · simp only [decode_wordOf_eol]; exact hplain .eol
  · simp only [decode_wordOf_endFrame]; exact hplain .endFrame
  · simp only [decode_wordOf_rst]; exact hplain .rst
  · simp only [decode_wordOf_rd]; exact hread
  · simp [Decoded.isCommand]

/-- The number `OP * 4096 + Z * 256 + IMM` as a word. -/
theorem tableWord_eq_wordOf (op : Nat) {z imm : Nat} (hz : z < 16) (himm : imm < 256) :
    tableWord 16 (op * 4096 + (z * 256 + imm)) = wordOf (BitVec.ofNat 4 op) (BitVec.ofNat 4 z) (BitVec.ofNat 8 imm) := by
  apply word_ext
  all_goals
    simp only [opField_wordOf, zField_wordOf, immField_wordOf]
    apply BitVec.eq_of_toNat_eq
    simp only [opField, zField, immField, tableWord, BitVec.extractLsb'_toNat, BitVec.toNat_ofNat,
      Nat.shiftRight_eq_div_pow]
    omega

/-- A count over a range sees a predicate only below its end. -/
theorem countP_range_congr {p q : Nat → Bool} {n : Nat} (h : ∀ j < n, p j = q j) :
    (List.range n).countP p = (List.range n).countP q :=
  List.countP_congr fun j hj => by rw [h j (List.mem_range.mp hj)]

/-- The 4096 words of one `OP`: those with `Z = 0` alone can be commands. -/
theorem countP_words_of_op (op : Nat) :
    ((List.range 4096).countP fun n => (decodeTableWord 16 (op * 4096 + n)).isSome) =
      commandsWith (BitVec.ofNat 4 op) 0x0#4 := by
  have hblock : ∀ z ∈ List.range 16,
      ((List.range 256).countP fun j => (decodeTableWord 16 (op * 4096 + (z * 256 + j))).isSome) =
        if BitVec.ofNat 4 z = 0x0#4 then commandsWith (BitVec.ofNat 4 op) 0x0#4 else 0 := by
    intro z hz
    rw [countP_range_congr fun j hj => by
      rw [isSome_decodeTableWord, tableWord_eq_wordOf op (List.mem_range.mp hz) hj]]
    split
    · rename_i h
      rw [h, commandsWith]
    · rename_i h
      exact commandsWith_of_z_ne _ h
  rw [countP_range_mul _ 16 256, List.map_congr_left hblock]
  simp [List.range_succ]

/-- 1 + 4 + 256 + 1 + 1 + 1 + 10 + 256 (R71). -/
theorem countP_commands : (List.range 65536).countP (fun n => (decodeTableWord 16 n).isSome) = 530 := by
  calc (List.range 65536).countP (fun n => (decodeTableWord 16 n).isSome)
      = ((List.range 16).map fun op =>
          (List.range 4096).countP fun n => (decodeTableWord 16 (op * 4096 + n)).isSome).sum :=
        countP_range_mul _ 16 4096
    _ = ((List.range 16).map fun op => commandsWith (BitVec.ofNat 4 op) 0x0#4).sum :=
        by simp only [countP_words_of_op]
    _ = 530 := by simp only [commandsWith_zero]; decide

theorem countP_isSome_add_countP_isNone {α β : Type} (f : α → Option β) (l : List α) :
    l.countP (fun a => (f a).isSome) + l.countP (fun a => (f a).isNone) = l.length := by
  rw [l.length_eq_countP_add_countP fun a => (f a).isSome]
  congr 2
  funext a
  cases f a <;> rfl

/-- The words that are no commands are the rest of the 65536. -/
theorem countP_reserved : (List.range 65536).countP (fun n => (decodeTableWord 16 n).isNone) = 65006 := by
  have hall := countP_isSome_add_countP_isNone (decodeTableWord 16) (List.range 65536)
  rw [countP_commands, List.length_range] at hall
  omega

/-- Settles O3: each row by `decode_row_iff`, a row without operand by its one word, and the count block by block. -/
theorem wordsDecodeByTheRowsOfTheOpcodeMap : Obligations.WordsDecodeByTheRowsOfTheOpcodeMap :=
  ⟨fun _ => decode_plain_iff rfl, decode_start_iff, decode_push_iff, fun _ => decode_plain_iff rfl,
    fun _ => decode_plain_iff rfl, fun _ => decode_plain_iff rfl, decode_rdCtl_iff, decode_rdLbLow_iff,
    decode_rdLbHigh_iff, decode_mir_iff, countP_commands⟩

/-! ### The reserved words (R74) -/

/-- The words that R74 lists, field by field. -/
theorem decode_reserved_iff (w : Word) : (∃ why, decode w = .reserved why) ↔
    (zField w ≠ 0#4 ∨ 8 ≤ (opField w).toNat ∨
      ((opField w = 0x0#4 ∨ opField w = 0x3#4 ∨ opField w = 0x4#4 ∨ opField w = 0x5#4) ∧ immField w ≠ 0x00#8) ∨
      (opField w = 0x1#4 ∧ (immField w).extractLsb' 2 6 ≠ 0#6) ∨
      (opField w = 0x6#4 ∧
        immField w ∉ [0x00#8, 0x01#8, 0x02#8, 0x03#8, 0x10#8, 0x11#8, 0x12#8, 0x13#8, 0x14#8, 0x15#8])) := by
  by_cases hz : zField w = 0x0#4
  case neg => exact iff_of_true ⟨_, decode_of_zField_ne hz⟩ (.inl hz)
  case pos =>
    rw [show decode w = decode (wordOf (opField w) 0x0#4 (immField w)) by rw [← hz, wordOf_fields], hz]
    generalize opField w = op, immField w = imm
    rcases opcode_cases op with hop | rfl | rfl | rfl | rfl | rfl | rfl | rfl | rfl
    · exact iff_of_true ⟨_, decode_wordOf_undefined hop imm⟩ (.inr (.inl hop))
    · rw [decode_wordOf_nop, decodePlain_reserved_iff]; simp
    · rw [decode_wordOf_start, decodeStart_reserved_iff]; simp
    · rw [decode_wordOf_push]; simp
    · rw [decode_wordOf_eol, decodePlain_reserved_iff]; simp
    · rw [decode_wordOf_endFrame, decodePlain_reserved_iff]; simp
    · rw [decode_wordOf_rst, decodePlain_reserved_iff]; simp
    · rw [decode_wordOf_rd, decodeRegister_reserved_iff]; simp [registerNumbers]
    · rw [decode_wordOf_mir]; simp

end Sys2Proof

namespace Sys2Proof.Machine

/-! ### A step on a command word (R74, R79) -/

theorem takeEvent_eq {s : State} {e : PortEvent} {rest : List PortEvent} (h : s.input = e :: rest) :
    takeEvent s = { s with input := rest } := by
  rw [takeEvent, h, List.tail_cons]

theorem step_reserved {s : State} {w : Word} {rest : List PortEvent} {why : Reserved} (hin : s.input = .command w :: rest)
    (hd : decode w = .reserved why) : step s = .next (takeReserved (takeEvent s)) := by
  simp only [step, hin, hd]

theorem step_command {s : State} {w : Word} {rest : List PortEvent} {i : Instr} (hin : s.input = .command w :: rest)
    (hd : decode w = .command i) : step s = exec i (takeEvent s) := by
  simp only [step, hin, hd]

/-- Settles O4: the list by the fields, the number as what the 530 commands leave, and the trap by `takeReserved`. -/
theorem reservedWordsAreThoseListedAndTrap : Obligations.ReservedWordsAreThoseListedAndTrap := by
  refine ⟨decode_reserved_iff, countP_reserved, fun s w rest why hin hd => ⟨fun hp => ?_, fun hp => ?_⟩, ⟨_, rfl⟩⟩
  · rw [step_reserved hin hd, takeReserved_not_fault (takeEvent_ph s ▸ hp), takeEvent_eq hin]
    rfl
  · rw [step_reserved hin hd, takeReserved_fault (takeEvent_ph s ▸ hp), takeEvent_eq hin]

/-! ### The response (R79) -/

/-- The printed table holds the mirror of every address (40_byte_mirror.md R91). -/
theorem lutRead_eq_rev8 (b : Byte) : lutRead b = rev8 b := by
  revert b; decide

theorem takeReserved_resp (s : State) : (takeReserved s).resp = some (status (takeReserved s)) := by
  unfold takeReserved
  split <;> rfl

/-- A command that is not one of the bystanders answers `STATUS` of the state it leaves. -/
theorem CommandEffect.resp_eq_status {s t : State} {i : Instr} (h : CommandEffect s i t)
    (hb : Machine.bystander i = false) : t.resp = some (status t) := by
  cases h with
  | bystander v htrue => rw [hb] at htrue; cases htrue
  | _ => rfl

/-- Settles O13: `NOP`, `RD` and `MIR` by their own meanings, every other command by what it can have done. -/
theorem everyCommandAnswersItsResponse : Obligations.EveryCommandAnswersItsResponse := by
  intro s t w rest hin hs
  cases hd : decode w with
  | reserved why =>
    cases (step_reserved hin hd).symm.trans hs
    exact takeReserved_resp _
  | command i =>
    have he : exec i (takeEvent s) = .next t := (step_command hin hd).symm.trans hs
    cases i with
    | nop => cases he; rfl
    | mir b => cases he; rw [respond_resp, lutRead_eq_rev8]
    | rdCtl r | rdLbLow r | rdLbHigh r => cases he; rw [respond_resp, readReg_takeEvent]
    | _ => exact (exec_effect he).resp_eq_status rfl

end Sys2Proof.Machine

/-! # Proofs of the byte mirror family (40_byte_mirror.md) -/

namespace Sys2Proof

/-! ### A byte in the low half of a word (R94) -/

theorem setWidth_eq_zero_append (b : Byte) : b.setWidth 16 = 0x00#8 ++ b :=
  BitVec.setWidth_eq_append (by decide)

theorem extractLsb'_high_setWidth (b : Byte) : (b.setWidth 16 : Word).extractLsb' 8 8 = 0x00#8 := by
  rw [setWidth_eq_zero_append]
  exact BitVec.extractLsb'_append_eq_left

/-- The word of a row whose operand is a whole byte: the word of operand 0, plus the byte (30_encoding.md R71). -/
theorem wordOf_eq_add (op : BitVec 4) (imm : Byte) :
    wordOf op 0x0#4 imm = wordOf op 0x0#4 0x00#8 + imm.setWidth 16 := by
  rw [setWidth_eq_zero_append]
  exact BitVec.append_zero_add_zero_append.symm

end Sys2Proof

namespace Sys2Proof.Machine

theorem exec_mir (b : Byte) (s : State) : exec (.mir b) s = .next (respond ((rev8 b).setWidth 16) s) := by
  rw [← lutRead_eq_rev8]
  rfl

/-- Settles O22: `MIR` is a response alone, read from a table that holds the mirror. -/
theorem mirAnswersTheMirroredByte : Obligations.MirAnswersTheMirroredByte :=
  fun s b => ⟨exec_mir b s, wordOf_eq_add 0x7#4 b, extractLsb'_high_setWidth (rev8 b)⟩

/-! ### The bits of a mirrored byte (R90 to R93) -/

/-- Bit `i` of the concatenation that defines `rev8`, for each of its eight places. -/
theorem getLsbD_rev8 (b : Byte) (i : Fin 8) : (rev8 b).getLsbD i.val = b.getLsbD (7 - i.val) := by
  simp only [rev8, BitVec.getLsbD_append, BitVec.getLsbD_ofBool]
  fin_cases i <;> rfl

/-- Settles O39: the bits of `rev8` are what `getLsbD_rev8` says. -/
theorem mirrorReversesTheBits : Obligations.MirrorReversesTheBits := getLsbD_rev8

/-- Sixteen rows of sixteen. -/
theorem length_lutTable : lutTable.length = 256 := by
  unfold lutTable
  simp only [List.length_append]
  rfl

/-- Settles O40: each entry by `lutRead_eq_rev8`. -/
theorem tableHoldsTheMirrorOfEveryAddress : Obligations.TableHoldsTheMirrorOfEveryAddress :=
  ⟨length_lutTable, lutRead_eq_rev8⟩

theorem byte_ext {a b : Byte} (h : ∀ i : Fin 8, a.getLsbD i.val = b.getLsbD i.val) : a = b :=
  BitVec.eq_of_getLsbD_eq fun i hi => h ⟨i, hi⟩

/-- `7 - (7 - i) = i`: bit `i` stands at place `7 - i` of the mirrored byte. -/
theorem getLsbD_rev8_mirrored (b : Byte) (i : Fin 8) : (rev8 b).getLsbD (7 - i.val) = b.getLsbD i.val := by
  have hbit := getLsbD_rev8 b ⟨7 - i.val, by omega⟩
  rwa [show 7 - (7 - i.val) = i.val by omega] at hbit

@[simp] theorem rev8_rev8 (b : Byte) : rev8 (rev8 b) = b :=
  byte_ext fun i => (getLsbD_rev8 (rev8 b) i).trans (getLsbD_rev8_mirrored b i)

/-- Settles O41: the involution by the bits, and 0x01 as the byte that tells it from idempotence. -/
theorem mirrorIsAnInvolution : Obligations.MirrorIsAnInvolution := ⟨rev8_rev8, rev8_rev8 _, by decide⟩

/-- The mirror permutes the places, and exclusive-or acts on each place alone. -/
theorem rev8_xor (a b : Byte) : rev8 (a ^^^ b) = rev8 a ^^^ rev8 b :=
  byte_ext fun i => by simp only [BitVec.getLsbD_xor, getLsbD_rev8]

theorem rev8_ones : rev8 0xFF#8 = 0xFF#8 := by decide

/-- Settles O42: complement is exclusive-or with 0xFF, which the mirror fixes. -/
theorem mirrorCommutesWithXor : Obligations.MirrorCommutesWithXor := by
  refine ⟨fun b => ?_, rev8_xor, by decide, rev8_ones⟩
  rw [rev8_xor, rev8_ones]

/-! ### The fixed points (R95) -/

/-- The byte whose upper half is the bits `p q r s` and whose lower half is the same bits in reverse. -/
def palindrome (p q r s : Bool) : Byte :=
  BitVec.ofBool p ++ BitVec.ofBool q ++ BitVec.ofBool r ++ BitVec.ofBool s ++
    BitVec.ofBool s ++ BitVec.ofBool r ++ BitVec.ofBool q ++ BitVec.ofBool p

/-- The bytes that R95 lists. -/
def palindromes : List Byte :=
  [0x00#8, 0x18#8, 0x24#8, 0x3C#8, 0x42#8, 0x5A#8, 0x66#8, 0x7E#8, 0x81#8, 0x99#8, 0xA5#8, 0xBD#8, 0xC3#8, 0xDB#8,
    0xE7#8, 0xFF#8]

theorem palindrome_mem_palindromes : ∀ p q r s : Bool, palindrome p q r s ∈ palindromes := by decide

theorem rev8_of_mem_palindromes : ∀ b ∈ palindromes, rev8 b = b := by
  simp only [palindromes, List.forall_mem_cons]
  decide

/-- A byte that the mirror fixes has bit `7 - i` equal to bit `i`, so its lower half determines it. -/
theorem eq_palindrome_of_rev8_eq {b : Byte} (h : rev8 b = b) :
    b = palindrome (b.getLsbD 0) (b.getLsbD 1) (b.getLsbD 2) (b.getLsbD 3) := by
  have hbit (i : Fin 8) : b.getLsbD i.val = b.getLsbD (7 - i.val) := by rw [← getLsbD_rev8, h]
  have h4 : b.getLsbD 4 = b.getLsbD 3 := hbit 4
  have h5 : b.getLsbD 5 = b.getLsbD 2 := hbit 5
  have h6 : b.getLsbD 6 = b.getLsbD 1 := hbit 6
  have h7 : b.getLsbD 7 = b.getLsbD 0 := hbit 7
  calc b = rev8 b := h.symm
    _ = palindrome (b.getLsbD 0) (b.getLsbD 1) (b.getLsbD 2) (b.getLsbD 3) := by
      rw [rev8, h4, h5, h6, h7, palindrome]

theorem rev8_eq_self_iff (b : Byte) : rev8 b = b ↔ b ∈ palindromes where
  mp h := eq_palindrome_of_rev8_eq h ▸ palindrome_mem_palindromes ..
  mpr h := rev8_of_mem_palindromes b h

/-! ### The pairs (R95): the mirror moves as many bytes up as down -/

/-- The mirror on the numbers 0 to 255. -/
def mirrorNat (n : ℕ) : ℕ := (rev8 (BitVec.ofNat 8 n)).toNat

theorem mirrorNat_lt (n : ℕ) : mirrorNat n < 256 := (rev8 (BitVec.ofNat 8 n)).isLt

theorem mirrorNat_mirrorNat {n : ℕ} (h : n < 256) : mirrorNat (mirrorNat n) = n := by
  rw [mirrorNat, mirrorNat, BitVec.ofNat_toNat, BitVec.setWidth_eq, rev8_rev8, BitVec.toNat_ofNat, Nat.mod_eq_of_lt h]

theorem mirrorNat_eq_self_iff {n : ℕ} (h : n < 256) : mirrorNat n = n ↔ BitVec.ofNat 8 n ∈ palindromes := by
  rw [← rev8_eq_self_iff, ← BitVec.toNat_inj, BitVec.toNat_ofNat, Nat.mod_eq_of_lt h, mirrorNat]

open Finset in
/-- An involution of the numbers below `n` is its own bijection between those it moves up and those it moves down. -/
theorem two_mul_card_lt_add_card_fixed {n : ℕ} {f : ℕ → ℕ} (hmaps : ∀ a < n, f a < n) (hinv : ∀ a < n, f (f a) = a) :
    2 * #{a ∈ range n | a < f a} + #{a ∈ range n | f a = a} = n := by
  have hpair : #{a ∈ range n | a < f a} = #{a ∈ range n | f a < a} := by
    apply card_nbij' f f
    all_goals simp +contextual [Set.MapsTo, Set.LeftInvOn, Set.RightInvOn, hmaps, hinv]
  have hmoved : #{a ∈ range n | ¬f a = a} = #{a ∈ range n | a < f a} + #{a ∈ range n | f a < a} := by
    simp only [← ne_eq, ne_iff_lt_or_gt, or_comm, filter_or]
    exact card_union_of_disjoint (disjoint_filter.mpr fun _ _ h => h.asymm)
  have hall := card_filter_add_card_filter_not (s := range n) (fun a => f a = a)
  rw [card_range] at hall
  omega

open Finset in
theorem card_mirrorNat_fixed : #{n ∈ range 256 | mirrorNat n = n} = 16 := by
  have hlist : {n ∈ range 256 | mirrorNat n = n} = (palindromes.map BitVec.toNat).toFinset := by
    ext n
    simp only [mem_filter, mem_range, List.mem_toFinset, List.mem_map]
    constructor
    · rintro ⟨hn, hfix⟩
      exact ⟨_, (mirrorNat_eq_self_iff hn).mp hfix, Nat.mod_eq_of_lt hn⟩
    · rintro ⟨b, hb, rfl⟩
      exact ⟨b.isLt, (mirrorNat_eq_self_iff b.isLt).mpr (by simpa using hb)⟩
  rw [hlist]
  rfl

/-- The 240 bytes that are not fixed fall into 120 pairs, each with one byte below its mirror. -/
theorem countP_lt_rev8 : (List.range 256).countP
    (fun n => decide ((BitVec.ofNat 8 n).toNat < (rev8 (BitVec.ofNat 8 n)).toNat)) = 120 := by
  have hpairs := two_mul_card_lt_add_card_fixed (fun n _ => mirrorNat_lt n) fun _ => mirrorNat_mirrorNat
  rw [card_mirrorNat_fixed] at hpairs
  calc (List.range 256).countP (fun n => decide ((BitVec.ofNat 8 n).toNat < (rev8 (BitVec.ofNat 8 n)).toNat))
      = (List.range 256).countP (fun n => decide (n < mirrorNat n)) :=
        countP_range_congr fun n hn => by rw [BitVec.toNat_ofNat, Nat.mod_eq_of_lt hn, mirrorNat]
    _ = ((Finset.range 256).filter fun n => n < mirrorNat n).card := List.countP_eq_length_filter
    _ = 120 := by omega

/-- The mirror lists the same eight bits in the other order. -/
theorem countP_getLsbD_rev8 (b : Byte) :
    (List.range 8).countP (fun k => (rev8 b).getLsbD k) = (List.range 8).countP (fun k => b.getLsbD k) := by
  calc (List.range 8).countP (fun k => (rev8 b).getLsbD k)
      = (List.range 8).countP ((fun k => b.getLsbD k) ∘ (7 - ·)) :=
        countP_range_congr fun k hk => getLsbD_rev8 b ⟨k, hk⟩
    _ = (List.range 8).reverse.countP (fun k => b.getLsbD k) := List.countP_map.symm
    _ = (List.range 8).countP (fun k => b.getLsbD k) := List.countP_reverse

/-- Settles O43: the palindromes by their halves, the pairs by the involution, the bits by their reversed order. -/
theorem mirrorFixesThePalindromes : Obligations.MirrorFixesThePalindromes :=
  ⟨rev8_eq_self_iff, countP_lt_rev8, countP_getLsbD_rev8⟩

end Sys2Proof.Machine

/-! # Proofs of the line datapath family (41_line_datapath.md) -/

namespace Sys2Proof.Machine

/-! ### The polarity mask (R100) -/

/-- The mirror fixes both masks. -/
@[simp] theorem rev8_polarityMask (v : Bool) : rev8 (polarityMask v) = polarityMask v := by
  revert v; decide

/-- Every bit of the mask is the polarity bit (R104). -/
theorem getLsbD_polarityMask (v : Bool) (k : Fin 8) : (polarityMask v).getLsbD k.val = !v := by
  revert v k; decide

theorem polarityMask_xor_not (v : Bool) : polarityMask v ^^^ polarityMask (!v) = 0xFF#8 := by
  revert v; decide

/-- Mirror and polarity commute on one byte, which is why the two directions agree (R103). -/
theorem rev8_xor_polarityMask (b : Byte) (v : Bool) : rev8 (b ^^^ polarityMask v) = rev8 b ^^^ polarityMask v := by
  rw [rev8_xor, rev8_polarityMask]

/-! ### The line functions, byte by byte (R101 to R105): byte `j` is read from position `5 - j`, which is `j.rev` -/

theorem line_ext {X Y : Vector Byte 6} (h : ∀ j : Fin 6, X[j] = Y[j]) : X = Y :=
  Vector.ext fun j hj => h ⟨j, hj⟩

theorem getElem_lineCore (X : Vector Byte 6) (v : Bool) (j : Fin 6) :
    (lineCore X v)[j] = rev8 X[j.rev] ^^^ polarityMask v := by
  fin_cases j <;> rfl

theorem getElem_lineB (R : Vector Byte 6) (v : Bool) (j : Fin 6) :
    (lineB R v)[j] = rev8 (R[j.rev] ^^^ polarityMask v) := by
  fin_cases j <;> rfl

theorem getElem_fit6 (R : List Byte) (i : Fin 6) : (fit6 R)[i] = R.getD i.val 0x00#8 := by
  fin_cases i <;> rfl

theorem toList_lineA (L : Vector Byte 6) (v : Bool) : (lineA L v).toList = (lineCore L v).toList ++ [0x00#8, 0x00#8] := rfl

theorem contentBytes_lineA (L : Vector Byte 6) (v : Bool) : contentBytes (lineA L v) = lineCore L v := rfl

theorem lineB_eq_lineCore (X : Vector Byte 6) (v : Bool) : lineB X v = lineCore X v :=
  line_ext fun j => by rw [getElem_lineB, getElem_lineCore, rev8_xor_polarityMask]

theorem getElem?_toList_line (X : Vector Byte 6) (j : Fin 6) : X.toList[j.val]? = some X[j] := by
  simp

theorem getD_toList_reversed (X : Vector Byte 6) (j : Fin 6) : X.toList.getD (5 - j.val) 0x00#8 = X[j.rev] := by
  rw [List.getD_eq_getElem?_getD, show 5 - j.val = j.rev.val by rw [Fin.val_rev]; omega, getElem?_toList_line,
    Option.getD_some]

/-- Settles O44: the content bytes are those of `lineCore`, and the two after them are literal zeros. -/
theorem lineAIsTheReversedMirroredLine : Obligations.LineAIsTheReversedMirroredLine := by
  refine ⟨fun L v j => ?_, fun L v => ⟨rfl, rfl⟩⟩
  rw [toList_lineA, List.getElem?_append_left (by simp), getElem?_toList_line, getElem_lineCore, getD_toList_reversed]
  rfl

/-- Settles O45: `getElem_lineB`, with the reversed position as the statement numbers it. -/
theorem lineBIsTheReversedMirroredRow : Obligations.LineBIsTheReversedMirroredRow := fun R v j => by
  rw [getElem?_toList_line, getElem_lineB, getD_toList_reversed]
  rfl

/-- Settles O46: both are `lineCore`. -/
theorem bothDirectionsComputeTheSameContent : Obligations.BothDirectionsComputeTheSameContent :=
  fun X v => ⟨(lineB_eq_lineCore X v).trans (contentBytes_lineA X v).symm, lineB_eq_lineCore X v⟩

/-- Settles O48: the padding byte 0x00 passes the inverter, and the mirror fixes what comes out. -/
theorem paddingComesBeforePolarity : Obligations.PaddingComesBeforePolarity := by
  refine ⟨fun R i => ?_, fun R v j hR => ?_⟩
  · rw [getElem_fit6]
    split
    · next h => exact List.getD_eq_getElem R _ h
    · next h => exact List.getD_eq_default R _ (Nat.le_of_not_lt h)
  · have hpad : (fit6 R)[j.rev] = 0x00#8 := by
      rw [getElem_fit6]
      exact List.getD_eq_default R _ (by rw [Fin.val_rev]; omega)
    rw [getElem_lineB, hpad, BitVec.zero_xor, rev8_polarityMask]
    rfl

/-! ### Both line functions in turn (R108) -/

/-- The transform with one polarity, then with another: the reversals and the mirrors cancel, and the two masks remain. -/
theorem getElem_lineCore_lineCore (X : Vector Byte 6) (v w : Bool) (j : Fin 6) :
    (lineCore (lineCore X v) w)[j] = X[j] ^^^ (polarityMask v ^^^ polarityMask w) := by
  simp only [getElem_lineCore, Fin.rev_rev, rev8_xor_polarityMask, rev8_rev8, BitVec.xor_assoc]

theorem lineCore_lineCore (X : Vector Byte 6) (v : Bool) : lineCore (lineCore X v) v = X :=
  line_ext fun j => by rw [getElem_lineCore_lineCore, BitVec.xor_self, BitVec.xor_zero]

theorem lineCore_lineCore_not (X : Vector Byte 6) (v : Bool) :
    lineCore (lineCore X v) (!v) = X.map (fun x => x ^^^ 0xFF#8) :=
  line_ext fun j => by
    rw [getElem_lineCore_lineCore, polarityMask_xor_not]
    exact (Vector.getElem_map (fun x => x ^^^ 0xFF#8) j.isLt).symm

/-- Settles O49: on content bytes each line function is `lineCore`, its own inverse for one polarity. -/
theorem lineFunctionsAreMutuallyInverse : Obligations.LineFunctionsAreMutuallyInverse := by
  refine ⟨fun L v => ?_, fun X v => ?_, fun L v => ?_⟩
  · rw [lineB_eq_lineCore, contentBytes_lineA, lineCore_lineCore]
  · rw [contentBytes_lineA, lineB_eq_lineCore, lineCore_lineCore]
  · rw [lineB_eq_lineCore, contentBytes_lineA, lineCore_lineCore_not]

/-! ### The 48 bits of a line (R104) -/

/-- Bit `8*i + k` of a line is bit `k` of its byte `i`. -/
theorem getLsbD_lineBits (X : Vector Byte 6) (i : Fin 6) (k : Fin 8) :
    (lineBits X).getLsbD (8 * i.val + k.val) = X[i].getLsbD k.val := by
  have hk := k.isLt
  simp only [lineBits, BitVec.getLsbD_append]
  -- In each case, `8 * i + k` lies past the bytes below byte `i`, and `k < 8` puts it in byte `i` itself.
  fin_cases i <;> simp +arith [hk]

/-- Bit `k` of byte `i` is read from byte `5 - i` (the reversal), bit `7 - k` (the mirror). -/
theorem getLsbD_lineBits_lineCore (X : Vector Byte 6) (v : Bool) (i : Fin 6) (k : Fin 8) :
    (lineBits (lineCore X v)).getLsbD (8 * i.val + k.val) =
      ((lineBits X).getLsbD (8 * i.rev.val + k.rev.val) ^^ !v) := by
  rw [getLsbD_lineBits, getLsbD_lineBits, getElem_lineCore, BitVec.getLsbD_xor, getLsbD_rev8, getLsbD_polarityMask,
    Fin.val_rev k, Nat.sub_add_eq, Nat.sub_right_comm]

/-- Settles O47: with `n = 8*i + k`, byte `5 - i` and bit `7 - k` are bit `47 - n` of the line. -/
theorem lineTransformReversesFortyEightBits : Obligations.LineTransformReversesFortyEightBits := by
  intro X v n
  have hbit := getLsbD_lineBits_lineCore X v ⟨n.val / 8, by omega⟩ ⟨n.val % 8, by omega⟩
  simp only [Fin.val_rev, Nat.div_add_mod] at hbit
  rwa [show 8 * (6 - (n.val / 8 + 1)) + (8 - (n.val % 8 + 1)) = 47 - n.val by omega] at hbit

/-! ### The completion of a line (R110, R111) -/

theorem completeLineA_eq {s : State} (hl : s.ln ≠ 32) :
    completeLineA s = { s with lb := clearedLine, wp := 0, ln := s.ln + 1, out := s.out ++ (lineA s.lb s.inv).toList } := by
  simp only [completeLineA, closeLine, emit, contentA, lutRead_eq_rev8, nextLn_eq_add_one (ln_lt_32 hl)]
  rfl

theorem completeLineB_eq {s : State} (hl : s.ln ≠ 32) :
    completeLineB s = { s with lb := clearedLine, wp := 0, ln := s.ln + 1, out := s.out ++ (lineB s.lb s.inv).toList } := by
  simp only [completeLineB, closeLine, emit, contentB, lutRead_eq_rev8, nextLn_eq_add_one (ln_lt_32 hl)]
  rfl

/-! ### `PUSH` (R106) -/

theorem exec_push_idle (b : Byte) {s : State} (hp : s.ph = .idle) :
    exec (.push b) s = .next (respondStatus (raiseError .eSeq s)) :=
  guarded_not_permitted (by simp [hp]) (by simp [permitted, hp])

theorem exec_push_fault (b : Byte) {s : State} (hp : s.ph = .fault) : exec (.push b) s = .next (respondStatus s) :=
  guarded_fault hp

theorem exec_push_run (b : Byte) {s : State} (hp : s.ph = .run) :
    exec (.push b) s = .next (respondStatus (pushOpen b s)) :=
  guarded_permitted (by simp [hp]) (by simp [permitted, hp])

theorem pushOpen_a_tooLong (b : Byte) {s : State} (hd : s.dir = .a) (hl : s.ln = 32) :
    pushOpen b s = raiseError .eLen s := by
  simp [pushOpen, pushA, hd, hl]

theorem pushOpen_a (b : Byte) {s : State} (hd : s.dir = .a) (hl : s.ln ≠ 32) :
    pushOpen b s = completeIfFull (storeByte b s) := by
  simp [pushOpen, pushA, hd, hl]

theorem pushOpen_b_dropped (b : Byte) {s : State} (hd : s.dir = .b) (h : s.ln = 32 ∨ s.wp = 6) : pushOpen b s = s := by
  rcases h with h | h <;> simp [pushOpen, pushB, hd, h]

theorem pushOpen_b (b : Byte) {s : State} (hd : s.dir = .b) (hl : s.ln ≠ 32) (hw : s.wp ≠ 6) :
    pushOpen b s = storeByte b s := by
  simp [pushOpen, pushB, hd, hl, hw]

theorem storeByte_eq (b : Byte) {s : State} (hw : s.wp.val < 6) :
    storeByte b s = { s with lb := s.lb.set s.wp.val b hw, wp := s.wp + 1 } := by
  rw [storeByte_of_lt b hw, nextWp_eq_add_one hw]

/-- The line goes on as long as the byte is not its sixth. -/
theorem completeIfFull_storeByte_of_ne (b : Byte) {s : State} (hw : s.wp.val < 6) (h5 : s.wp ≠ 5) :
    completeIfFull (storeByte b s) = storeByte b s := by
  rw [storeByte_of_lt b hw]
  exact if_neg fun h6 => h5 (Fin.ext ((nextWp_eq_six hw).mp h6))

theorem storeByte_five (b : Byte) {s : State} (hw : s.wp = 5) :
    storeByte b s = { s with lb := s.lb.set 5 b, wp := 6 } := by
  rcases s with ⟨ph, dir, inv, done, err, wp, ln, lb, out, input, resp⟩
  cases hw
  rfl

/-- The sixth byte of a line completes it (R106, R110). -/
theorem completeIfFull_storeByte_five (b : Byte) {s : State} (hl : s.ln ≠ 32) (hw : s.wp = 5) :
    completeIfFull (storeByte b s) =
      { s with lb := clearedLine, wp := 0, ln := s.ln + 1, out := s.out ++ (lineA (s.lb.set 5 b) s.inv).toList } := by
  rw [storeByte_five b hw, completeIfFull, if_pos rfl]
  exact completeLineA_eq hl

/-- Settles O16: what `pushOpen` does in each direction, behind the tests that every command passes. -/
theorem pushTakesOneByte : Obligations.PushTakesOneByte := by
  intro s b
  refine ⟨wordOf_eq_add 0x2#4 b, exec_push_idle b, exec_push_fault b, ?tooLong, ?stored, ?sixth, ?dropped, ?storedB⟩
  case tooLong =>
    intro hp hd hl
    rw [exec_push_run b hp, pushOpen_a_tooLong b hd hl, raiseError]
  case stored =>
    intro hp hd hl hw h5
    rw [exec_push_run b hp, pushOpen_a b hd hl, completeIfFull_storeByte_of_ne b hw h5, storeByte_eq b hw]
  case sixth =>
    intro hp hd hl h5
    rw [exec_push_run b hp, pushOpen_a b hd hl, completeIfFull_storeByte_five b hl h5, clearedLine]
  case dropped =>
    intro hp hd h
    rw [exec_push_run b hp, pushOpen_b_dropped b hd h]
  case storedB =>
    intro hp hd hl hw
    have hne : s.wp ≠ 6 := fun e => by simp [e] at hw
    rw [exec_push_run b hp, pushOpen_b b hd hl hne, storeByte_eq b hw]

/-! ### `EOL` (R107) -/

theorem exec_eol_not_permitted {s : State} (h : s.ph = .idle ∨ s.ph = .run ∧ s.dir = .a) :
    exec .eol s = .next (respondStatus (raiseError .eSeq s)) := by
  rcases h with hp | ⟨hp, hd⟩
  · exact guarded_not_permitted (by simp [hp]) (by simp [permitted, hp])
  · exact guarded_not_permitted (by simp [hp]) (by simp [permitted, hd])

theorem exec_eol_fault {s : State} (hp : s.ph = .fault) : exec .eol s = .next (respondStatus s) :=
  guarded_fault hp

theorem exec_eol_run_b {s : State} (hp : s.ph = .run) (hd : s.dir = .b) :
    exec .eol s = .next (respondStatus (if s.ln = 32 then s else completeLineB s)) :=
  guarded_permitted (by simp [hp]) (by simp [permitted, hp, hd])

/-- Settles O18: permitted only in an open Direction B frame, where it completes the row if there is room for it. -/
theorem eolClosesARow : Obligations.EolClosesARow := by
  refine ⟨by decide, fun s => ⟨fun hp => ?idle, exec_eol_fault, fun hp hd => ?runA, fun hp hd hl => ?full,
    fun hp hd hl => ?row⟩⟩
  case idle => exact exec_eol_not_permitted (.inl hp)
  case runA => exact exec_eol_not_permitted (.inr ⟨hp, hd⟩)
  case full => rw [exec_eol_run_b hp hd, if_pos hl]
  case row => rw [exec_eol_run_b hp hd, if_neg hl, completeLineB_eq hl, clearedLine]

end Sys2Proof.Machine

/-! # Proofs of the frame control family (42_frame_control.md) -/

namespace Sys2Proof.Machine

/-! ### The tests before every command, as `exec` makes them (30_encoding.md R80) -/

/-- `NOP`, `RD` and `MIR` only answer, in every phase. -/
theorem exec_bystander {i : Instr} (hb : bystander i = true) (s : State) : ∃ v, exec i s = .next (respond v s) := by
  cases i with
  | nop | rdCtl r | rdLbLow r | rdLbHigh r | mir b => exact ⟨_, rfl⟩
  | start d v | push b | eol | endFrame | rst => cases hb

/-- In `FAULT` every other command but `RST` is ignored (60_exceptions.md R161). -/
theorem exec_of_fault {i : Instr} {s : State} (hb : bystander i = false) (hr : i ≠ .rst) (hp : s.ph = .fault) :
    exec i s = .next (respondStatus s) := by
  cases i with
  | nop | rdCtl r | rdLbLow r | rdLbHigh r | mir b => cases hb
  | start d v | push b | eol | endFrame => exact guarded_fault hp
  | rst => exact absurd rfl hr

/-- Outside `FAULT` a command that is not permitted takes `E_SEQ` (60_exceptions.md R158). -/
theorem exec_of_not_permitted {i : Instr} {s : State} (hp : s.ph ≠ .fault) (hn : permitted i s = false) :
    exec i s = .next (respondStatus (raiseError .eSeq s)) := by
  cases i with
  | nop | rdCtl r | rdLbLow r | rdLbHigh r | mir b | rst => cases hn
  | start d v | push b | eol | endFrame => exact guarded_not_permitted hp hn

/-! ### `NOP` (R130) -/

/-- Settles O14: `NOP` is its response. -/
theorem nopOnlyAnswersStatus : Obligations.NopOnlyAnswersStatus :=
  ⟨by decide, fun _ => rfl⟩

/-! ### `START` (R131) -/

theorem encode_start (d : Dir) (v : Bool) : encode (.start d v) =
    0x1000#16 + (if d = .b then 1#16 else 0#16) + 2#16 * (if v then 1#16 else 0#16) := by
  cases d <;> cases v <;> decide

theorem exec_start_idle (d : Dir) (v : Bool) {s : State} (hp : s.ph = .idle) :
    exec (.start d v) s = .next (respondStatus (openFrame d v s)) :=
  guarded_permitted (by simp [hp]) (by simp [permitted, hp])

/-- Settles O15: permitted in `IDLE` alone, where it does what `openFrame` writes. -/
theorem startOpensAFrame : Obligations.StartOpensAFrame := by
  refine fun s d v => ⟨encode_start d v, exec_start_idle d v, fun hp => ?_, exec_of_fault rfl (by simp)⟩
  exact exec_of_not_permitted (by simp [hp]) (by simp [permitted, hp])

/-! ### `RST` (R133) -/

/-- Settles O20: the reset state, whose `STATUS` is 0x0000. -/
theorem rstReturnsToTheResetState : Obligations.RstReturnsToTheResetState := by
  refine ⟨by decide, by decide, fun s => ?_⟩
  rw [exec_rst, respondStatus, status_toReset]
  rfl

/-! ### `END` (R132) -/

theorem exec_endFrame_run {s : State} (hp : s.ph = .run) : exec .endFrame s = .next (respondStatus (endOpen s)) :=
  guarded_permitted (by simp [hp]) (by simp [permitted, hp])

theorem endOpen_a {s : State} (hd : s.dir = .a) : endOpen s = endA s := by
  simp only [endOpen, hd]

theorem endOpen_b {s : State} (hd : s.dir = .b) : endOpen s = endB s := by
  simp only [endOpen, hd]

theorem toList_lineB_clearedLine (v : Bool) : (lineB clearedLine v).toList = List.replicate 6 (polarityMask v) := by
  cases v <;> decide

/-- Lines completed from a cleared buffer are padding: bytes `PM(INV)`, whatever the number of lines. -/
theorem completeLinesB_out_of_cleared {n : Nat} {s : State} (hlb : s.lb = clearedLine) (hn : s.ln.val + n ≤ 32) :
    (completeLinesB n s).out = s.out ++ List.replicate (6 * n) (polarityMask s.inv) := by
  induction n generalizing s with
  | zero => simp [completeLinesB]
  | succ n ih =>
    have hlt : s.ln.val < 32 := by omega
    have hln : (completeLineB s).ln.val = s.ln.val + 1 := nextLn_val_of_lt hlt
    have hout : (completeLineB s).out = s.out ++ List.replicate 6 (polarityMask s.inv) := by
      rw [completeLineB_eq (fun e => by simp [e] at hlt), hlb, toList_lineB_clearedLine]
    rw [completeLinesB, ih rfl (by omega), hout, completeLineB_inv, List.append_assoc, List.replicate_append_replicate,
      Nat.mul_succ, Nat.add_comm]

theorem completeLinesB_wp_lb_of_cleared {n : Nat} {s : State} (hw : s.wp = 0) (hlb : s.lb = clearedLine) :
    (completeLinesB n s).wp = 0 ∧ (completeLinesB n s).lb = clearedLine := by
  rcases n with - | n
  · exact ⟨hw, hlb⟩
  · exact (completeLinesB_lb s (Nat.succ_ne_zero n)).symm

/-- With no row open `END` appends the padding lines and ends the frame. -/
theorem endB_of_row_closed {s : State} (hw : s.wp = 0) (hlb : s.lb = clearedLine) :
    endB s = { s with done := true, ph := .idle, wp := 0, ln := 32, lb := clearedLine,
                      out := s.out ++ List.replicate (6 * (32 - s.ln.val)) (polarityMask s.inv) } := by
  have hrow : closeOpenRow s = s := if_neg fun h => h.2 hw
  obtain ⟨hwp, hline⟩ := completeLinesB_wp_lb_of_cleared (n := 32 - s.ln.val) hw hlb
  have hout := completeLinesB_out_of_cleared (n := 32 - s.ln.val) hlb (by omega)
  exact state_ext (by simp) (by simp) (by simp) (by simp) (by simp) (by simpa [endB, hrow]) (by simp)
    (by simpa [endB, hrow]) (by simpa [endB, hrow]) (by simp) (by simp)

/-- An open row is closed as if by `EOL`. -/
theorem endB_of_row_open {s : State} (hl : s.ln ≠ 32) (hw : s.wp ≠ 0) : endB s = endB (completeLineB s) := by
  have hopen : closeOpenRow s = completeLineB s := if_pos ⟨ln_lt_32 hl, hw⟩
  have hclosed : closeOpenRow (completeLineB s) = completeLineB s := if_neg fun h => h.2 rfl
  rw [endB, endB, hopen, hclosed]

theorem endB_of_full {s : State} (hl : s.ln = 32) : endB s = finishFrame s := by
  have hrow : closeOpenRow s = s := if_neg fun h => by simp [hl] at h
  rw [endB, hrow, hl]
  rfl

/-- A line buffer of which no position has received a byte (10_state.md R34 item 6). -/
theorem eq_clearedLine {X : Vector Byte 6} (h : ∀ i : Fin 6, X[i] = 0x00#8) : X = clearedLine :=
  line_ext fun i => (h i).trans (clearedLine_get i).symm

/-- Settles O19: Direction A by `endA`; Direction B with all lines there, with no row open, and with a row to close first. -/
theorem endClosesTheFrame : Obligations.EndClosesTheFrame := by
  refine ⟨by decide, fun s => ⟨fun hp => ?idle, exec_of_fault rfl (by simp), fun hp hd hl => ?doneA, fun hp hd hl => ?short,
    fun hp hd hl => ?full, fun hp hd hl hnot => ?padded⟩⟩
  case idle => exact exec_of_not_permitted (by simp [hp]) (by simp [permitted, hp])
  case doneA => rw [exec_endFrame_run hp, endOpen_a hd, endA, if_pos hl, finishFrame]
  case short => rw [exec_endFrame_run hp, endOpen_a hd, endA, if_neg hl, raiseError]
  case full => rw [exec_endFrame_run hp, endOpen_b hd, endB_of_full hl, finishFrame]
  case padded =>
    rw [exec_endFrame_run hp, endOpen_b hd]
    by_cases hw : s.wp = 0
    · have hlb : s.lb = clearedLine := eq_clearedLine fun i => hnot i (by simp [hw])
      rw [endB_of_row_closed hw hlb, if_pos hw]
      rfl
    · have hln : (completeLineB s).ln.val = s.ln.val + 1 := nextLn_val_of_lt (ln_lt_32 hl)
      rw [endB_of_row_open hl hw, endB_of_row_closed rfl rfl, hln, completeLineB_eq hl, if_neg hw, ← List.append_assoc,
        show 32 - (s.ln.val + 1) = 31 - s.ln.val by omega]
      rfl

/-! ### The phase after a step (R134) -/

theorem exec_push_run_phase {b : Byte} {s t : State} (h : exec (.push b) s = .next t) (hp : s.ph = .run) :
    if s.dir = .a ∧ s.ln = 32 then t.ph = .fault ∧ t.err = .eLen else t.ph = .run := by
  cases exec_effect h with
  | bystander v hb => cases hb
  | ignored hb hr hf => simp [hp] at hf
  | notPermitted hf hn => simp [permitted, hp] at hn
  | tooLong b _ hd hl => rw [if_pos ⟨hd, hl⟩]; exact ⟨rfl, rfl⟩
  | stored b _ hl hw hd => rw [if_neg fun h => hl h.2]; exact hp
  | lineA b _ hd hl hw => rw [if_neg fun h => hl h.2]; exact hp
  | lineFull b _ hd hl hw => rw [if_neg fun h => hl h.2]; exact hp
  | dropped b _ hd hl => rw [if_neg fun h => by simp [hd] at h]; exact hp

theorem exec_eol_run_phase {s t : State} (h : exec .eol s = .next t) (hp : s.ph = .run) :
    if s.dir = .a then t.ph = .fault ∧ t.err = .eSeq else t.ph = .run := by
  cases hd : s.dir with
  | a =>
    cases (exec_eol_not_permitted (.inr ⟨hp, hd⟩)).symm.trans h
    exact ⟨rfl, rfl⟩
  | b =>
    cases (exec_eol_run_b hp hd).symm.trans h
    rw [if_neg (by simp), respondStatus_ph]
    split
    · exact hp
    · exact hp

theorem exec_endFrame_run_phase {s t : State} (h : exec .endFrame s = .next t) (hp : s.ph = .run) :
    if s.dir = .b ∨ (s.ln = 32 ∧ s.wp = 0) then t.ph = .idle ∧ t.done = true else t.ph = .fault ∧ t.err = .eLen := by
  cases (exec_endFrame_run hp).symm.trans h
  cases hd : s.dir with
  | a =>
    rw [endOpen_a hd, endA]
    by_cases hl : s.ln = 32 ∧ s.wp = 0
    · rw [if_pos hl, if_pos (.inr hl)]
      exact ⟨rfl, rfl⟩
    · rw [if_neg hl, if_neg (by simpa using hl)]
      exact ⟨rfl, rfl⟩
  | b =>
    rw [endOpen_b hd, if_pos (.inl rfl)]
    exact ⟨rfl, rfl⟩

/-- The table writes `FAULT` out for the phase that an ignored command leaves. -/
theorem respondStatus_of_fault {s : State} {rest : List PortEvent} (hp : s.ph = .fault) :
    respondStatus { s with input := rest } = { s with ph := .fault, input := rest, resp := some (status s) } := by
  rw [← hp]
  rfl

/-- In `FAULT` the table lists only `RST` and the bystanders; nothing else changes anything but the response. -/
theorem exec_fault_phase {i : Instr} {s t : State} {rest : List PortEvent} (h : exec i { s with input := rest } = .next t)
    (hb : bystander i = false) (hr : i ≠ .rst) (hp : s.ph = .fault) :
    t = { s with ph := .fault, input := rest, resp := some (status s) } :=
  (Host.Outcome.next.inj (h.symm.trans (exec_of_fault hb hr hp))).trans (respondStatus_of_fault hp)

theorem exec_not_permitted_phase {i : Instr} {s t : State} (h : exec i s = .next t) (hp : s.ph ≠ .fault)
    (hn : permitted i s = false) : t.ph = .fault ∧ t.err = .eSeq := by
  cases h.symm.trans (exec_of_not_permitted hp hn)
  exact ⟨rfl, rfl⟩

/-- Settles O30: a bystander answers, in `FAULT` the rest is ignored, a command not permitted takes `E_SEQ`, and one that is
permitted has its own row. -/
theorem phaseTransitionsAreTheTable : Obligations.PhaseTransitionsAreTheTable := by
  intro s t e rest hin hs
  have htaken := takeEvent_eq hin
  cases e with
  | reset =>
    cases (step_reset hin).symm.trans hs
    exact atReset_toReset _
  | command w =>
    dsimp only
    generalize hd : decode w = d
    cases d with
    | reserved why =>
      have he := (step_reserved hin hd).symm.trans hs
      cases hp : s.ph with
      | fault =>
        rw [takeReserved_fault (by simp [hp]), htaken] at he
        exact (Host.Outcome.next.inj he.symm).trans (respondStatus_of_fault hp)
      | idle | run =>
        rw [takeReserved_not_fault (by simp [hp])] at he
        cases he
        exact ⟨rfl, rfl⟩
    | command i =>
      have he : exec i { s with input := rest } = .next t := htaken ▸ (step_command hin hd).symm.trans hs
      cases i with
      | nop | rdCtl r | rdLbLow r | rdLbHigh r | mir b => cases he; rfl
      | rst => cases he; exact atReset_respondStatus (atReset_toReset _)
      | start d v =>
        cases hp : s.ph with
        | idle =>
          cases he.symm.trans (exec_start_idle d v hp)
          exact ⟨rfl, rfl, rfl, rfl, rfl⟩
        | run => exact exec_not_permitted_phase he (by simp [hp]) (by simp [permitted, hp])
        | fault => exact exec_fault_phase he rfl (by simp) hp
      | push b =>
        cases hp : s.ph with
        | idle => exact exec_not_permitted_phase he (by simp [hp]) (by simp [permitted, hp])
        | run => exact exec_push_run_phase (s := { s with input := rest }) he hp
        | fault => exact exec_fault_phase he rfl (by simp) hp
      | eol =>
        cases hp : s.ph with
        | idle => exact exec_not_permitted_phase he (by simp [hp]) (by simp [permitted, hp])
        | run => exact exec_eol_run_phase (s := { s with input := rest }) he hp
        | fault => exact exec_fault_phase he rfl (by simp) hp
      | endFrame =>
        cases hp : s.ph with
        | idle => exact exec_not_permitted_phase he (by simp [hp]) (by simp [permitted, hp])
        | run => exact exec_endFrame_run_phase (s := { s with input := rest }) he hp
        | fault => exact exec_fault_phase he rfl (by simp) hp

/-! ### Lists put together from parts of one length -/

theorem length_flatMap_of_length {α β : Type} {f : α → List β} {k : Nat} (hf : ∀ x, (f x).length = k) (xs : List α) :
    (xs.flatMap f).length = k * xs.length := by
  induction xs with
  | nil => rfl
  | cons x xs ih => rw [List.flatMap_cons, List.length_append, hf, ih, List.length_cons, Nat.mul_succ, Nat.add_comm]

/-- Cut at part `r`, the list gives the parts from `r` on. -/
theorem drop_flatMap {α β : Type} {f : α → List β} {k : Nat} (hf : ∀ x, (f x).length = k) (xs : List α) (r : Nat) :
    (xs.flatMap f).drop (k * r) = (xs.drop r).flatMap f := by
  induction xs generalizing r with
  | nil => simp
  | cons x xs ih =>
    cases r with
    | zero => rfl
    | succ r => rw [List.flatMap_cons, Nat.mul_succ, Nat.add_comm, ← hf x, List.drop_length_add_append, hf, ih,
        List.drop_succ_cons]

theorem take_flatMap {α β : Type} {f : α → List β} {k : Nat} (hf : ∀ x, (f x).length = k) (xs : List α) (r : Nat) :
    (xs.flatMap f).take (k * r) = (xs.take r).flatMap f := by
  induction xs generalizing r with
  | nil => simp
  | cons x xs ih =>
    cases r with
    | zero => rfl
    | succ r => rw [List.flatMap_cons, Nat.mul_succ, Nat.add_comm, ← hf x, List.take_length_add_append, hf, ih,
        List.take_succ_cons, List.flatMap_cons]

/-- Part `r` of a list of parts numbered from 0. -/
theorem take_drop_flatMap_range {β : Type} {f : Nat → List β} {k n r : Nat} (hf : ∀ l, (f l).length = k) (hr : r < n) :
    (((List.range n).flatMap f).drop (k * r)).take k = f r := by
  have htake := take_flatMap hf ((List.range n).drop r) 1
  rw [Nat.mul_one] at htake
  rw [drop_flatMap hf, htake, List.drop_eq_getElem_cons (by simpa using hr)]
  simp

theorem getElem?_flatMap_range {β : Type} {f : Nat → List β} {k n r j : Nat} (hf : ∀ l, (f l).length = k) (hr : r < n)
    (hj : j < k) : ((List.range n).flatMap f)[k * r + j]? = (f r)[j]? := by
  rw [← take_drop_flatMap_range hf hr, List.getElem?_take_of_lt hj, List.getElem?_drop]

/-! ### Fitted rows and device lines (41_line_datapath.md R105, 20_memory.md R63) -/

theorem toList_fit6 {R : List Byte} (h : 6 ≤ R.length) : (fit6 R).toList = R.take 6 := by
  match R, h with
  | _ :: _ :: _ :: _ :: _ :: _ :: _, _ => rfl

theorem fit6_take (R : List Byte) : fit6 (R.take 6) = fit6 R :=
  line_ext fun i => by rw [getElem_fit6, getElem_fit6, List.getD_eq_getElem?_getD, List.getElem?_take_of_lt i.isLt,
    List.getD_eq_getElem?_getD]

theorem fit6_toList (X : Vector Byte 6) : fit6 X.toList = X :=
  line_ext fun i => by rw [getElem_fit6, List.getD_eq_getElem?_getD, getElem?_toList_line, Option.getD_some]

/-- The content bytes of a stored row, fitted (R108, R139). -/
theorem fit6_toList_lineA (L : Vector Byte 6) (v : Bool) : fit6 (lineA L v).toList = lineCore L v := rfl

theorem fit6_nil : fit6 [] = clearedLine := rfl

/-- The lines of a list of bytes, put together again. -/
theorem flatMap_deviceLine {D : List Byte} {n : Nat} (h : 6 * n ≤ D.length) :
    (List.range n).flatMap (fun l => (deviceLine D l).toList) = D.take (6 * n) := by
  induction n with
  | zero => rfl
  | succ n ih =>
    have hline : 6 ≤ (D.drop (6 * n)).length := by rw [List.length_drop]; omega
    rw [List.range_succ, List.flatMap_append, ih (by omega), List.flatMap_singleton, deviceLine, Config.lineBytes,
      toList_fit6 hline, Nat.mul_succ, List.take_add]

/-! ### Whole blocks and images, line by line (R135, R136) -/

/-- The first `n` rows that Direction A puts out for the bytes `D`. -/
def decodedRows (D : List Byte) (v : Bool) (n : Nat) : List Byte :=
  (List.range n).flatMap fun l => (lineA (deviceLine D l) v).toList

/-- The lines that Direction B puts out for the rows `Rs`. -/
def encodedLines (Rs : List (List Byte)) (v : Bool) : List Byte :=
  Rs.flatMap fun R => (lineB (fit6 R) v).toList

theorem decodeBlock_eq_decodedRows {D : List Byte} (h : D.length = 192) (v : Bool) :
    decodeBlock D v = some (decodedRows D v 32) := if_pos h

theorem decodeBlock_eq_some_iff {D B : List Byte} {v : Bool} :
    decodeBlock D v = some B ↔ D.length = 192 ∧ decodedRows D v 32 = B := by
  rw [decodeBlock, Option.ite_none_right_eq_some, Option.some.injEq]
  rfl

/-- `Rs32` numbered from 0: row `l` of the image, empty where there is none. -/
theorem rows32_eq_map_range (Rs : List (List Byte)) : rows32 Rs = (List.range 32).map fun l => Rs.getD l [] := by
  have hlen : (Rs.take Config.height).length = min 32 Rs.length := List.length_take
  apply List.ext_getElem (by simp [rows32, Config.height]; omega)
  intro l hl hr
  have hl : l < 32 := by simpa using hr
  rw [List.getElem_map, List.getElem_range]
  by_cases hin : l < Rs.length
  · rw [List.getD_eq_getElem Rs _ hin]
    exact (List.getElem_append_left (by omega)).trans List.getElem_take
  · rw [List.getD_eq_default Rs _ (by omega)]
    exact (List.getElem_append_right (by omega)).trans (List.getElem_replicate _)

theorem encodeRows_eq_flatMap_range (Rs : List (List Byte)) (v : Bool) :
    encodeRows Rs v = (List.range 32).flatMap fun l => (lineB (fit6 (Rs.getD l [])) v).toList := by
  rw [encodeRows, rows32_eq_map_range, List.flatMap_map]

theorem length_encodeRows (Rs : List (List Byte)) (v : Bool) : (encodeRows Rs v).length = 192 := by
  rw [encodeRows_eq_flatMap_range, length_flatMap_of_length (fun _ => Vector.length_toList), List.length_range]

/-- Settles O51: byte `6l + j` is byte `j` of the line that row `l` gives. -/
theorem encodeRowsByteByByte : Obligations.EncodeRowsByteByByte := by
  refine fun Rs v => ⟨length_encodeRows Rs v, fun l j => ?_⟩
  rw [encodeRows_eq_flatMap_range, getElem?_flatMap_range (fun _ => Vector.length_toList) l.isLt j.isLt,
    getElem?_toList_line, getElem_lineB, getElem_fit6, Fin.val_rev, Nat.sub_add_eq, Nat.sub_right_comm]
  rfl

/-! ### The round trips (R139, R140) -/

/-- The rows of a decoded block are the rows of its lines. -/
theorem rows_decodedRows (D : List Byte) (v : Bool) :
    rows (decodedRows D v 32) = (List.range 32).map fun l => (lineA (deviceLine D l) v).toList :=
  List.map_congr_left fun _ hl => take_drop_flatMap_range (fun _ => Vector.length_toList) (List.mem_range.mp hl)

/-- Settles O55: each line comes back by `lineCore_lineCore`, and the lines together are the block. -/
theorem roundTripOnTheDeviceSide : Obligations.RoundTripOnTheDeviceSide := by
  intro D B v h
  obtain ⟨hlen, rfl⟩ := decodeBlock_eq_some_iff.mp h
  have hrow (l : Nat) (hl : l < 32) : (rows (decodedRows D v 32)).getD l [] = (lineA (deviceLine D l) v).toList := by
    simp [rows_decodedRows, hl]
  calc encodeRows (rows (decodedRows D v 32)) v
    _ = (List.range 32).flatMap fun l => (deviceLine D l).toList := by
        rw [encodeRows_eq_flatMap_range]
        refine List.flatMap_congr fun l hl => ?_
        rw [hrow l (List.mem_range.mp hl), fit6_toList_lineA, lineB_eq_lineCore, lineCore_lineCore]
    _ = D.take 192 := flatMap_deviceLine (by omega)
    _ = D := by rw [← hlen, List.take_length]

/-- Line `l` of an encoded image is what Direction B makes of row `l`. -/
theorem deviceLine_encodeRows (Rs : List (List Byte)) (v : Bool) {l : Nat} (hl : l < 32) :
    deviceLine (encodeRows Rs v) l = lineCore (fit6 (Rs.getD l [])) v := by
  rw [deviceLine, Config.lineBytes, ← fit6_take, encodeRows_eq_flatMap_range,
    take_drop_flatMap_range (fun _ => Vector.length_toList) hl, fit6_toList, lineB_eq_lineCore]

/-- Row `l` of an image encoded with one polarity and decoded with another. -/
theorem getElem?_rows_of_encoded (Rs : List (List Byte)) (v w : Bool) (l : Fin 32) :
    (rows (decodedRows (encodeRows Rs v) w 32))[l.val]? =
      some ((lineCore (lineCore (fit6 (Rs.getD l.val [])) v) w).toList ++ [0x00#8, 0x00#8]) := by
  rw [rows_decodedRows, List.getElem?_map, List.getElem?_range l.isLt, Option.map_some, deviceLine_encodeRows Rs v l.isLt,
    toList_lineA]

/-- Settles O56: `lineCore` twice with one polarity, and with both. -/
theorem roundTripOnTheBitmapSide : Obligations.RoundTripOnTheBitmapSide := by
  refine fun Rs v => ⟨⟨_, decodeBlock_eq_decodedRows (length_encodeRows Rs v) v, fun l => ?_⟩,
    ⟨_, decodeBlock_eq_decodedRows (length_encodeRows Rs v) (!v), fun l => ?_⟩⟩
  · rw [getElem?_rows_of_encoded, lineCore_lineCore]
  · rw [getElem?_rows_of_encoded, lineCore_lineCore_not, Vector.toList_map]

/-! ### Constant blocks and the empty image (R141) -/

theorem deviceLine_replicate {n l : Nat} (c : Byte) (h : 6 * l + 6 ≤ n) :
    deviceLine (List.replicate n c) l = Vector.replicate 6 c :=
  line_ext fun i => by
    have hi : i.val < n - 6 * l := by omega
    rw [deviceLine, Config.lineBytes, getElem_fit6, List.drop_replicate]
    exact (List.getD_replicate _ hi).trans (Vector.getElem_replicate i.isLt).symm

theorem decodeBlock_replicate (c : Byte) (v : Bool) : decodeBlock (List.replicate 192 c) v =
    some (List.replicate 32 (lineA (Vector.replicate 6 c) v).toList).flatten := by
  have hline (l : Nat) (hl : l ∈ List.range 32) : (lineA (deviceLine (List.replicate 192 c) l) v).toList =
      (lineA (Vector.replicate 6 c) v).toList := by
    have := List.mem_range.mp hl
    rw [deviceLine_replicate c (by omega)]
  rw [decodeBlock_eq_decodedRows List.length_replicate, decodedRows, List.flatMap_congr hline, List.flatMap_def,
    List.map_const', List.length_range]

/-- Empty rows are padding: six bytes `PM(inv)` each. -/
theorem encodedLines_replicate_nil (k : Nat) (v : Bool) :
    encodedLines (List.replicate k []) v = List.replicate (6 * k) (polarityMask v) := by
  rw [encodedLines, List.flatMap_def, List.map_replicate, fit6_nil, toList_lineB_clearedLine,
    List.flatten_replicate_replicate, Nat.mul_comm]

/-- The lines of the image, then padding up to 32 lines (R136). -/
theorem encodeRows_eq_encodedLines (Rs : List (List Byte)) (v : Bool) : encodeRows Rs v =
    encodedLines (Rs.take 32) v ++ List.replicate (6 * (32 - min Rs.length 32)) (polarityMask v) := by
  rw [← encodedLines_replicate_nil]
  exact List.flatMap_append

/-- Settles O57: a constant block is 32 times one row, and an image of no rows is all padding. -/
theorem constantBlocksAndTheEmptyImage : Obligations.ConstantBlocksAndTheEmptyImage := by
  have hzeros : (lineA (Vector.replicate 6 0x00#8) true).toList = List.replicate 8 0x00#8 := by decide
  have hones : (lineA (Vector.replicate 6 0xFF#8) false).toList = List.replicate 8 0x00#8 := by decide
  refine ⟨decodeBlock_replicate _ _, ?_, ?_, decodeBlock_replicate _ _, encodeRows_eq_encodedLines []⟩
  · rw [decodeBlock_replicate, hzeros, List.flatten_replicate_replicate]
  · rw [decodeBlock_replicate, hones, List.flatten_replicate_replicate]

/-! ### A command sees nothing of what the host presents after it (20_memory.md R58) -/

theorem completeIfFull_present (evs : List PortEvent) (s : State) :
    completeIfFull (present evs s) = present evs (completeIfFull s) :=
  (apply_ite (present evs) (s.wp = 6) (completeLineA s) s).symm

theorem pushOpen_present (evs : List PortEvent) (b : Byte) (s : State) :
    pushOpen b (present evs s) = present evs (pushOpen b s) := by
  simp only [pushOpen, present_dir]
  cases s.dir with
  | a =>
    show pushA b (present evs s) = present evs (pushA b s)
    rw [pushA, pushA, apply_ite (present evs), ← completeIfFull_present]
    rfl
  | b =>
    show pushB b (present evs s) = present evs (pushB b s)
    rw [pushB, pushB, apply_ite (present evs), apply_ite (present evs)]
    rfl

theorem eolOpen_present (evs : List PortEvent) (s : State) :
    (if (present evs s).ln = 32 then present evs s else completeLineB (present evs s)) =
      present evs (if s.ln = 32 then s else completeLineB s) :=
  (apply_ite (present evs) (s.ln = 32) s (completeLineB s)).symm

theorem completeLinesB_present (evs : List PortEvent) (n : Nat) (s : State) :
    completeLinesB n (present evs s) = present evs (completeLinesB n s) := by
  induction n generalizing s with
  | zero => rfl
  | succ n ih => exact ih (completeLineB s)

theorem closeOpenRow_present (evs : List PortEvent) (s : State) :
    closeOpenRow (present evs s) = present evs (closeOpenRow s) :=
  (apply_ite (present evs) (s.ln.val < 32 ∧ s.wp ≠ 0) (completeLineB s) s).symm

theorem endOpen_present (evs : List PortEvent) (s : State) : endOpen (present evs s) = present evs (endOpen s) := by
  simp only [endOpen, present_dir]
  cases s.dir with
  | a => exact (apply_ite (present evs) (s.ln = 32 ∧ s.wp = 0) (finishFrame s) (raiseError .eLen s)).symm
  | b =>
    show endB (present evs s) = present evs (endB s)
    rw [endB, closeOpenRow_present, completeLinesB_present]
    rfl

/-- The tests of R80 and the response see nothing of it either, so it remains to look at what the command itself does. -/
theorem guarded_present {i : Instr} {s t : State} {f : State → State} {evs : List PortEvent}
    (hf : f (present evs s) = present evs (f s)) (h : guarded i s (.next (respondStatus (f s))) = .next t) :
    guarded i (present evs s) (.next (respondStatus (f (present evs s)))) = .next (present evs t) := by
  have hpermitted : permitted i (present evs s) = permitted i s := by cases i <;> rfl
  rcases guarded_cases i s (.next (respondStatus (f s))) with ⟨hp, e⟩ | ⟨hp, hn, e⟩ | ⟨hp, hm, e⟩
  · cases e.symm.trans h
    exact guarded_fault hp
  · cases e.symm.trans h
    exact guarded_not_permitted hp (hpermitted.trans hn)
  · cases e.symm.trans h
    rw [hf]
    exact guarded_permitted hp (hpermitted.trans hm)

theorem exec_present {i : Instr} {s t : State} (evs : List PortEvent) (h : exec i s = .next t) :
    exec i (present evs s) = .next (present evs t) := by
  cases i with
  | nop | mir b | rst => cases h; rfl
  | rdCtl r | rdLbLow r | rdLbHigh r => cases h; cases r <;> rfl
  | start d v => exact guarded_present (f := openFrame d v) rfl h
  | push b => exact guarded_present (pushOpen_present evs b s) h
  | eol => exact guarded_present (f := fun u => if u.ln = 32 then u else completeLineB u) (eolOpen_present evs s) h
  | endFrame => exact guarded_present (endOpen_present evs s) h

/-! ### Runs of commands (30_encoding.md R78) -/

theorem runCommands_nil (s : State) : runCommands [] s = .next s := rfl

theorem runCommands_cons {c : Instr} {cs : List Instr} {s t : State} (hc : c.wf = true) (h : exec c s = .next t) :
    runCommands (c :: cs) s = runCommands cs t :=
  run_succ_next cs.length ((step_present_command _ (decode_encode hc)).trans (exec_present _ h))

/-- The commands are carried out one after another, from one state to another. -/
inductive ExecAll : List Instr → State → State → Prop
  | nil (s : State) : ExecAll [] s s
  | cons {c : Instr} {cs : List Instr} {s u t : State} (first : exec c s = .next u) (rest : ExecAll cs u t) :
      ExecAll (c :: cs) s t

theorem ExecAll.append {cs ds : List Instr} {s u t : State} (h : ExecAll cs s u) (g : ExecAll ds u t) :
    ExecAll (cs ++ ds) s t := by
  induction h with
  | nil => exact g
  | cons first _ ih => exact .cons first (ih g)

/-- A host that presents the words of these commands has them carried out. -/
theorem ExecAll.runCommands_eq {cs : List Instr} {s t : State} (h : ExecAll cs s t) (hwf : ∀ c ∈ cs, c.wf = true) :
    runCommands cs s = .next t := by
  induction h with
  | nil s => exact runCommands_nil s
  | cons first _ ih =>
    rw [runCommands_cons (hwf _ List.mem_cons_self) first]
    exact ih fun c hc => hwf c (List.mem_cons_of_mem _ hc)

/-! ### Runs with bystanders between the commands (R134, last row; R137) -/

/-- From every state that has `P` the commands `ds`, with any number of `NOP`, `RD` and `MIR` before, between and after them,
lead to a state that has `Q`. -/
def Leads (P : State → Prop) (ds : List Instr) (Q : State → Prop) : Prop :=
  ∀ (cs : List Instr) (s : State), cs.filter (fun c => !bystander c) = ds → P s → ∃ t, ExecAll cs s t ∧ Q t

/-- A property that no response changes. -/
def IgnoresResponse (P : State → Prop) : Prop := ∀ (v : Word) (s : State), P s → P (respond v s)

theorem Leads.nil {P : State → Prop} (hP : IgnoresResponse P) : Leads P [] P := by
  intro cs s hcs hs
  induction cs generalizing s with
  | nil => exact ⟨s, .nil s, hs⟩
  | cons c cs ih =>
    obtain ⟨hc, hrest⟩ := List.forall_mem_cons.mp (List.filter_eq_nil_iff.mp hcs)
    obtain ⟨v, hv⟩ := exec_bystander (by simpa using hc) s
    obtain ⟨t, ht, hPt⟩ := ih (respond v s) (List.filter_eq_nil_iff.mpr hrest) (hP v s hs)
    exact ⟨t, .cons hv ht, hPt⟩

theorem Leads.append {P Q R : State → Prop} {ds es : List Instr} (h : Leads P ds Q) (g : Leads Q es R) :
    Leads P (ds ++ es) R := by
  intro cs s hcs hs
  obtain ⟨cs₁, cs₂, rfl, h₁, h₂⟩ := List.filter_eq_append_iff.mp hcs
  obtain ⟨u, hu, hQ⟩ := h cs₁ s h₁ hs
  obtain ⟨t, ht, hR⟩ := g cs₂ u h₂ hQ
  exact ⟨t, hu.append ht, hR⟩

theorem Leads.command {P Q : State → Prop} {d : Instr} (hP : IgnoresResponse P) (hQ : IgnoresResponse Q)
    (h : ∀ s, P s → ∃ t, exec d s = .next t ∧ Q t) : Leads P [d] Q := by
  intro cs s hcs hs
  obtain ⟨before, after, rfl, hbefore, -, hafter⟩ := List.filter_eq_cons_iff.mp hcs
  obtain ⟨u, hu, hPu⟩ := Leads.nil hP before s (List.filter_eq_nil_iff.mpr hbefore) hs
  obtain ⟨w, hw, hQw⟩ := h u hPu
  obtain ⟨t, ht, hQt⟩ := Leads.nil hQ after w hafter hQw
  exact ⟨t, hu.append (.cons hw ht), hQt⟩

/-- Commands made item by item: what each item adds, the whole list adds. -/
theorem Leads.flatMap {α : Type} {I : List α → State → Prop} {f : α → List Instr} (hI : ∀ xs, IgnoresResponse (I xs))
    (h : ∀ xs x, Leads (I xs) (f x) (I (xs ++ [x]))) (xs ys : List α) : Leads (I xs) (ys.flatMap f) (I (xs ++ ys)) := by
  induction ys generalizing xs with
  | nil => simpa using Leads.nil (hI xs)
  | cons y ys ih => simpa using (h xs y).append (ih (xs ++ [y]))

/-- The run of the commands of a host, with its bystanders. -/
theorem Leads.runCommands {P Q : State → Prop} {ds cs : List Instr} {s : State} (h : Leads P ds Q)
    (hcs : cs.filter (fun c => !bystander c) = ds) (hwf : ∀ c ∈ cs, c.wf = true) (hs : P s) :
    ∃ t, Machine.runCommands cs s = .next t ∧ Q t := by
  obtain ⟨t, ht, hQ⟩ := h cs s hcs hs
  exact ⟨t, ht.runCommands_eq hwf, hQ⟩

/-! ### Lists of bytes that grow by a byte -/

/-- The next position of a fitted row takes the next byte. -/
theorem set_fit6 {R : List Byte} {k : Nat} (b : Byte) (hk : k < 6) (hR : R.length = k) :
    (fit6 R).set k b hk = fit6 (R ++ [b]) := by
  subst hR
  refine line_ext fun i => ?_
  refine (Vector.getElem_set hk i.isLt).trans ?_
  rw [getElem_fit6, List.getD_eq_getElem?_getD]
  rcases Nat.lt_trichotomy i.val R.length with hlt | heq | hgt
  · rw [if_neg (by omega), List.getElem?_append_left hlt]
    exact getElem_fit6 R i
  · rw [if_pos heq.symm, heq, List.getElem?_concat_length, Option.getD_some]
  · rw [if_neg (by omega), List.getElem?_eq_none (by simp; omega)]
    exact (getElem_fit6 R i).trans (List.getD_eq_default R _ (by omega))

/-- A whole line of a list of bytes is not changed by what comes after it. -/
theorem deviceLine_append {P : List Byte} {l : Nat} (h : 6 * l + 6 ≤ P.length) (E : List Byte) :
    deviceLine (P ++ E) l = deviceLine P l := by
  rw [deviceLine, deviceLine, Config.lineBytes, ← fit6_take, List.drop_append_of_le_length (by omega),
    List.take_append_of_le_length (by rw [List.length_drop]; omega), fit6_take]

theorem deviceLine_of_length_le {P : List Byte} {l : Nat} (h : P.length ≤ 6 * l) : deviceLine P l = clearedLine := by
  rw [deviceLine, Config.lineBytes, List.drop_eq_nil_of_le h, fit6_nil]

theorem set_deviceLine {P : List Byte} {l k : Nat} (b : Byte) (hk : k < 6) (hP : P.length = 6 * l + k) :
    (deviceLine P l).set k b hk = deviceLine (P ++ [b]) l := by
  have hlen : (P.drop (6 * l)).length = k := by rw [List.length_drop]; omega
  rw [deviceLine, deviceLine, Config.lineBytes, set_fit6 b hk hlen, List.drop_append_of_le_length (by omega)]

theorem decodedRows_succ (D : List Byte) (v : Bool) (n : Nat) :
    decodedRows D v (n + 1) = decodedRows D v n ++ (lineA (deviceLine D n) v).toList := by
  rw [decodedRows, List.range_succ, List.flatMap_append, List.flatMap_singleton, ← decodedRows]

theorem decodedRows_append {P : List Byte} {n : Nat} (h : 6 * n ≤ P.length) (E : List Byte) (v : Bool) :
    decodedRows (P ++ E) v n = decodedRows P v n :=
  List.flatMap_congr fun l hl => by
    have := List.mem_range.mp hl
    rw [deviceLine_append (by omega)]

theorem take_decodedRows (D : List Byte) (v : Bool) {m n : Nat} (h : m ≤ n) :
    (decodedRows D v n).take (8 * m) = decodedRows D v m := by
  rw [decodedRows, take_flatMap (fun _ => Vector.length_toList), List.take_range, Nat.min_eq_left h, decodedRows]

/-! ### A Direction A frame, byte by byte (R137) -/

/-- No frame is open and no error taken: where `START` finds the block. -/
def Ready (s : State) : Prop := s.ph = .idle ∧ s.err = .none

/-- A frame ended with success, with this output. -/
def Finished (B : List Byte) (s : State) : Prop :=
  s.ph = .idle ∧ s.done = true ∧ s.err = .none ∧ s.out = B ∧ s.ln = 32 ∧ s.wp = 0

/-- `E_LEN` was taken. -/
def LengthFault (s : State) : Prop := s.ph = .fault ∧ s.err = .eLen ∧ s.done = false

/-- The state of an open Direction A frame that has accepted the bytes `P`: all of it follows from `P`. -/
structure BytesTaken (v : Bool) (P : List Byte) (s : State) : Prop where
  ph : s.ph = .run
  dir : s.dir = .a
  inv : s.inv = v
  err : s.err = .none
  ln : s.ln.val = P.length / 6
  wp : s.wp.val = P.length % 6
  lb : s.lb = deviceLine P (P.length / 6)
  out : s.out = decodedRows P v (P.length / 6)

/-- What the bytes `P` after `START A` have led to: the frame is open as long as they are no more than a block. -/
def AfterBytes (v : Bool) (P : List Byte) : State → Prop :=
  if P.length ≤ 192 then BytesTaken v P else LengthFault

theorem afterBytes_of_le {P : List Byte} (h : P.length ≤ 192) (v : Bool) : AfterBytes v P = BytesTaken v P := if_pos h

theorem afterBytes_of_gt {P : List Byte} (h : 192 < P.length) (v : Bool) : AfterBytes v P = LengthFault :=
  if_neg (Nat.not_le_of_lt h)

theorem ready_of_legalState {s : State} (h : LegalState s) (hp : s.ph = .idle) : Ready s :=
  ⟨hp, h.err_of_not_fault (by simp [hp])⟩

theorem Ready.ignoresResponse : IgnoresResponse Ready := fun _ _ h => h

theorem Finished.ignoresResponse (B : List Byte) : IgnoresResponse (Finished B) := fun _ _ h => h

theorem LengthFault.ignoresResponse : IgnoresResponse LengthFault := fun _ _ h => h

theorem BytesTaken.ignoresResponse (v : Bool) (P : List Byte) : IgnoresResponse (BytesTaken v P) :=
  fun _ _ h => { h with }

theorem AfterBytes.ignoresResponse (v : Bool) (P : List Byte) : IgnoresResponse (AfterBytes v P) := by
  rcases le_or_gt P.length 192 with hle | hgt
  · rw [afterBytes_of_le hle]
    exact BytesTaken.ignoresResponse v P
  · rw [afterBytes_of_gt hgt]
    exact LengthFault.ignoresResponse

/-- A command that `FAULT` ignores leaves the error as it is. -/
theorem LengthFault.exec {i : Instr} {s : State} (h : LengthFault s) (hb : bystander i = false) (hr : i ≠ .rst) :
    ∃ t, exec i s = .next t ∧ LengthFault t :=
  ⟨_, exec_of_fault hb hr h.1, h⟩

theorem exec_start_a {v : Bool} {s : State} (h : Ready s) : ∃ t, exec (.start .a v) s = .next t ∧ AfterBytes v [] t :=
  ⟨_, exec_start_idle .a v h.1, ⟨rfl, rfl, rfl, h.2, rfl, rfl, rfl, rfl⟩⟩

theorem ln_add_one_val {ln : Fin 33} (h : ln ≠ 32) : (ln + 1).val = ln.val + 1 := by
  rw [← nextLn_eq_add_one (ln_lt_32 h), nextLn_val_of_lt (ln_lt_32 h)]

theorem BytesTaken.push {v : Bool} {P : List Byte} {s : State} (b : Byte) (h : BytesTaken v P s) (hP : P.length < 192) :
    ∃ t, Machine.exec (.push b) s = .next t ∧ BytesTaken v (P ++ [b]) t := by
  obtain ⟨hph, hdir, hinv, herr, hln, hwp, hlb, hout⟩ := h
  have hl : s.ln ≠ 32 := fun e => by simp [e] at hln; omega
  have hw : s.wp.val < 6 := by omega
  have hlen : (P ++ [b]).length = P.length + 1 := List.length_append
  refine ⟨_, exec_push_run b hph, ?_⟩
  rw [pushOpen_a b hdir hl]
  by_cases h5 : s.wp = 5
  · have hfull : P.length % 6 = 5 := by simpa [h5] using hwp.symm
    have hnext : (P ++ [b]).length / 6 = P.length / 6 + 1 := by omega
    have hline : s.lb.set 5 b = deviceLine (P ++ [b]) (P.length / 6) := hlb ▸ set_deviceLine b (by omega) (by omega)
    rw [completeIfFull_storeByte_five b hl h5]
    refine ⟨hph, hdir, hinv, herr, ?_, ?_, ?_, ?_⟩
    · exact (ln_add_one_val hl).trans (by omega)
    · exact (show 0 = _ by omega)
    · exact (deviceLine_of_length_le (by omega)).symm
    · show s.out ++ _ = _
      rw [hnext, decodedRows_succ, decodedRows_append (by omega), hout, hline, hinv]
  · have hnot : P.length % 6 ≠ 5 := fun e => h5 (Fin.ext (hwp.trans e))
    have hsame : (P ++ [b]).length / 6 = P.length / 6 := by omega
    rw [completeIfFull_storeByte_of_ne b hw h5, storeByte_of_lt b hw]
    refine ⟨hph, hdir, hinv, herr, ?_, ?_, ?_, ?_⟩
    · exact hln.trans hsame.symm
    · exact (nextWp_val_of_lt hw).trans (by omega)
    · show s.lb.set _ b hw = _
      rw [hlb, hsame]
      exact set_deviceLine b hw (by omega)
    · show s.out = _
      rw [hsame, decodedRows_append (by omega), hout]

theorem BytesTaken.ln_eq_32_iff {v : Bool} {P : List Byte} {s : State} (h : BytesTaken v P s) :
    s.ln = 32 ∧ s.wp = 0 ↔ P.length = 192 := by
  rw [Fin.ext_iff, Fin.ext_iff, h.ln, h.wp]
  show P.length / 6 = 32 ∧ P.length % 6 = 0 ↔ _
  omega

theorem BytesTaken.push_tooLong {v : Bool} {P : List Byte} {s : State} (b : Byte) (h : BytesTaken v P s)
    (hP : P.length = 192) : ∃ t, Machine.exec (.push b) s = .next t ∧ LengthFault t := by
  refine ⟨_, exec_push_run b h.ph, ?_⟩
  rw [pushOpen_a_tooLong b h.dir (h.ln_eq_32_iff.mpr hP).1]
  exact ⟨rfl, rfl, rfl⟩

theorem AfterBytes.push {v : Bool} {P : List Byte} {s : State} (b : Byte) (h : AfterBytes v P s) :
    ∃ t, Machine.exec (.push b) s = .next t ∧ AfterBytes v (P ++ [b]) t := by
  have hlen : (P ++ [b]).length = P.length + 1 := List.length_append
  rcases Nat.lt_trichotomy P.length 192 with hlt | heq | hgt
  · rw [afterBytes_of_le (by omega)] at h ⊢
    exact h.push b hlt
  · rw [afterBytes_of_le (by omega)] at h
    rw [afterBytes_of_gt (by omega)]
    exact h.push_tooLong b heq
  · rw [afterBytes_of_gt (by omega)] at h ⊢
    exact h.exec rfl (by simp)

theorem AfterBytes.endFrame_of_length_eq {v : Bool} {P : List Byte} {s : State} (h : AfterBytes v P s)
    (hP : P.length = 192) : ∃ t, exec .endFrame s = .next t ∧ Finished (decodedRows P v 32) t := by
  rw [afterBytes_of_le (by omega)] at h
  have hfull := h.ln_eq_32_iff.mpr hP
  refine ⟨_, exec_endFrame_run h.ph, ?_⟩
  rw [endOpen_a h.dir, endA, if_pos hfull]
  exact ⟨rfl, rfl, h.err, by rw [respondStatus_out, finishFrame_out, h.out, hP], hfull⟩

theorem AfterBytes.endFrame_of_length_ne {v : Bool} {P : List Byte} {s : State} (h : AfterBytes v P s)
    (hP : P.length ≠ 192) : ∃ t, exec .endFrame s = .next t ∧ LengthFault t := by
  rcases le_or_gt P.length 192 with hle | hgt
  · rw [afterBytes_of_le hle] at h
    refine ⟨_, exec_endFrame_run h.ph, ?_⟩
    rw [endOpen_a h.dir, endA, if_neg (mt h.ln_eq_32_iff.mp hP)]
    exact ⟨rfl, rfl, rfl⟩
  · rw [afterBytes_of_gt hgt] at h
    exact h.exec rfl (by simp)

/-! ### `DECODE` (R137) -/

theorem leads_start_a_pushes (v : Bool) (P : List Byte) :
    Leads Ready (.start .a v :: P.map Instr.push) (AfterBytes v P) := by
  have hstart : Leads Ready [.start .a v] (AfterBytes v []) :=
    .command Ready.ignoresResponse (AfterBytes.ignoresResponse v []) fun _ => exec_start_a
  have hpush (Q : List Byte) (b : Byte) : Leads (AfterBytes v Q) [.push b] (AfterBytes v (Q ++ [b])) :=
    .command (AfterBytes.ignoresResponse v Q) (AfterBytes.ignoresResponse v _) fun _ => AfterBytes.push b
  rw [List.map_eq_flatMap]
  exact hstart.append (.flatMap (AfterBytes.ignoresResponse v) hpush [] P)

theorem leads_decodeSequence {v : Bool} {D : List Byte} {Q : State → Prop} (hQ : IgnoresResponse Q)
    (hend : ∀ s, AfterBytes v D s → ∃ t, exec .endFrame s = .next t ∧ Q t) : Leads Ready (decodeSequence v D) Q :=
  (leads_start_a_pushes v D).append (.command (AfterBytes.ignoresResponse v D) hQ hend)

/-- Settles O53: the state after every `PUSH` is `AfterBytes`, and `END` decides by the length. -/
theorem decodeSequenceComputesDecodeBlock : Obligations.DecodeSequenceComputesDecodeBlock := by
  intro s v D cs hs hp hwf
  have hready := ready_of_legalState hs hp
  refine ⟨fun B hB hcs => ?finished, fun B k hB hcs => ?partly, fun hlen hcs => ?wrongLength⟩
  case finished =>
    obtain ⟨hlen, rfl⟩ := decodeBlock_eq_some_iff.mp hB
    exact (leads_decodeSequence (Finished.ignoresResponse _) fun _ h => h.endFrame_of_length_eq hlen).runCommands hcs hwf
      hready
  case partly =>
    obtain ⟨hlen, rfl⟩ := decodeBlock_eq_some_iff.mp hB
    have htaken : (D.take (k.val + 1)).length = k.val + 1 := by rw [List.length_take]; omega
    obtain ⟨t, ht, h⟩ := (leads_start_a_pushes v (D.take (k.val + 1))).runCommands hcs hwf hready
    rw [afterBytes_of_le (by omega)] at h
    have happ := decodedRows_append (P := D.take (k.val + 1)) (n := (k.val + 1) / 6) (by omega) (D.drop (k.val + 1)) v
    rw [List.take_append_drop] at happ
    exact ⟨t, ht, by rw [h.out, htaken, ← happ, take_decodedRows D v (by omega)]⟩
  case wrongLength =>
    exact (leads_decodeSequence LengthFault.ignoresResponse fun _ h => h.endFrame_of_length_ne hlen).runCommands hcs hwf
      hready

/-! ### Rows that grow by a byte, images that grow by a row (R136) -/

/-- Bytes beyond the sixth of a row do not count. -/
theorem fit6_append {R : List Byte} (h : 6 ≤ R.length) (E : List Byte) : fit6 (R ++ E) = fit6 R := by
  rw [← fit6_take, List.take_append_of_le_length h, fit6_take]

/-- An image may end in an empty row or without it. -/
theorem encodeRows_append_nil (Rs : List (List Byte)) (v : Bool) : encodeRows (Rs ++ [[]]) v = encodeRows Rs v := by
  rw [encodeRows_eq_flatMap_range, encodeRows_eq_flatMap_range]
  have hrow (l : Nat) : (Rs ++ [[]]).getD l [] = Rs.getD l [] := by
    rcases Nat.lt_or_ge l Rs.length with hlt | hge
    · exact List.getD_append _ _ _ _ hlt
    · rw [List.getD_append_right _ _ _ _ hge, List.getD_eq_default _ _ hge]
      cases l - Rs.length <;> rfl
  exact List.flatMap_congr fun l _ => by rw [hrow]

/-- Rows beyond the 32nd do not count. -/
theorem encodeRows_append {Rs : List (List Byte)} (h : 32 ≤ Rs.length) (Qs : List (List Byte)) (v : Bool) :
    encodeRows (Rs ++ Qs) v = encodeRows Rs v := by
  rw [encodeRows_eq_flatMap_range, encodeRows_eq_flatMap_range]
  refine List.flatMap_congr fun l hl => ?_
  rw [List.getD_append _ _ _ _ (Nat.lt_of_lt_of_le (List.mem_range.mp hl) h)]

/-! ### A Direction B frame, row by row (R138) -/

/-- The bytes of the row in progress: beyond the 32nd row every byte is dropped (41_line_datapath.md R106). -/
def rowInProgress (Rs : List (List Byte)) (R : List Byte) : List Byte := if Rs.length < 32 then R else []

/-- The state of an open Direction B frame in which the rows `Rs` are closed and the bytes `R` have come since: all of it
follows from `Rs` and `R`. -/
structure RowsTaken (v : Bool) (Rs : List (List Byte)) (R : List Byte) (s : State) : Prop where
  ph : s.ph = .run
  dir : s.dir = .b
  inv : s.inv = v
  err : s.err = .none
  ln : s.ln.val = min Rs.length 32
  wp : s.wp.val = min (rowInProgress Rs R).length 6
  lb : s.lb = fit6 (rowInProgress Rs R)
  out : s.out = encodedLines (Rs.take 32) v

theorem RowsTaken.ignoresResponse (v : Bool) (Rs : List (List Byte)) (R : List Byte) :
    IgnoresResponse (RowsTaken v Rs R) := fun _ _ h => { h with }

theorem rowInProgress_of_lt {Rs : List (List Byte)} (h : Rs.length < 32) (R : List Byte) : rowInProgress Rs R = R := if_pos h

theorem rowInProgress_of_ge {Rs : List (List Byte)} (h : 32 ≤ Rs.length) (R : List Byte) : rowInProgress Rs R = [] :=
  if_neg (Nat.not_lt_of_le h)

theorem rowInProgress_nil (Rs : List (List Byte)) : rowInProgress Rs [] = [] := ite_self []

theorem RowsTaken.ln_eq_32_iff {v : Bool} {Rs : List (List Byte)} {R : List Byte} {s : State} (h : RowsTaken v Rs R s) :
    s.ln = 32 ↔ 32 ≤ Rs.length := by
  rw [Fin.ext_iff, h.ln]
  show min Rs.length 32 = 32 ↔ _
  omega

theorem RowsTaken.wp_eq_zero_iff {v : Bool} {Rs : List (List Byte)} {R : List Byte} {s : State} (h : RowsTaken v Rs R s) :
    s.wp = 0 ↔ rowInProgress Rs R = [] := by
  rw [Fin.ext_iff, h.wp, ← List.length_eq_zero_iff]
  show min _ 6 = 0 ↔ _
  omega

theorem exec_start_b {v : Bool} {s : State} (h : Ready s) :
    ∃ t, exec (.start .b v) s = .next t ∧ RowsTaken v [] [] t :=
  ⟨_, exec_start_idle .b v h.1, ⟨rfl, rfl, rfl, h.2, rfl, rfl, rfl, rfl⟩⟩

/-- With 32 rows closed it makes no difference what came since. -/
theorem RowsTaken.of_full {v : Bool} {Rs Qs : List (List Byte)} {R R' : List Byte} {s : State} (h : RowsTaken v Rs R s)
    (hfull : 32 ≤ Rs.length) : RowsTaken v (Rs ++ Qs) R' s := by
  have hlen : (Rs ++ Qs).length = Rs.length + Qs.length := List.length_append
  have hrow : rowInProgress (Rs ++ Qs) R' = rowInProgress Rs R := by
    rw [rowInProgress_of_ge (by omega), rowInProgress_of_ge hfull]
  exact { h with
    ln := h.ln.trans (by omega)
    wp := hrow ▸ h.wp
    lb := hrow ▸ h.lb
    out := by rw [h.out, List.take_append_of_le_length hfull] }

theorem RowsTaken.push {v : Bool} {Rs : List (List Byte)} {R : List Byte} {s : State} (b : Byte) (h : RowsTaken v Rs R s) :
    ∃ t, exec (.push b) s = .next t ∧ RowsTaken v Rs (R ++ [b]) t := by
  refine ⟨_, exec_push_run b h.ph, RowsTaken.ignoresResponse _ _ _ _ _ ?_⟩
  rcases Nat.lt_or_ge Rs.length 32 with hlt | hge
  · have hl : s.ln ≠ 32 := mt h.ln_eq_32_iff.mp (Nat.not_le_of_lt hlt)
    obtain ⟨hph, hdir, hinv, herr, hln, hwp, hlb, hout⟩ := h
    rw [rowInProgress_of_lt hlt] at hwp hlb
    have hlen : (R ++ [b]).length = R.length + 1 := List.length_append
    rcases Nat.lt_or_ge R.length 6 with hshort | hlong
    · have hw : s.wp.val < 6 := by omega
      rw [pushOpen_b b hdir hl (fun e => by simp [e] at hw), storeByte_of_lt b hw]
      refine ⟨hph, hdir, hinv, herr, hln, ?_, ?_, hout⟩
      · rw [rowInProgress_of_lt hlt]
        exact (nextWp_val_of_lt hw).trans (by omega)
      · rw [rowInProgress_of_lt hlt, ← set_fit6 b hw (by omega), ← hlb]
    · have hw : s.wp = 6 := Fin.ext (hwp.trans (Nat.min_eq_right hlong))
      rw [pushOpen_b_dropped b hdir (.inr hw)]
      refine ⟨hph, hdir, hinv, herr, hln, ?_, ?_, hout⟩
      · rw [rowInProgress_of_lt hlt]
        omega
      · rw [rowInProgress_of_lt hlt, fit6_append hlong, hlb]
  · rw [pushOpen_b_dropped b h.dir (.inl (h.ln_eq_32_iff.mpr hge))]
    simpa using h.of_full (Qs := []) hge

/-- A completed line closes the row. -/
theorem RowsTaken.closeRow {v : Bool} {Rs : List (List Byte)} {R : List Byte} {s : State} (h : RowsTaken v Rs R s)
    (hl : s.ln ≠ 32) : RowsTaken v (Rs ++ [R]) [] (completeLineB s) := by
  have hlt : Rs.length < 32 := by have := mt h.ln_eq_32_iff.mpr hl; omega
  have hlen : (Rs ++ [R]).length = Rs.length + 1 := List.length_append
  obtain ⟨hph, hdir, hinv, herr, hln, -, hlb, hout⟩ := h
  rw [rowInProgress_of_lt hlt] at hlb
  rw [completeLineB_eq hl]
  refine ⟨hph, hdir, hinv, herr, ?_, ?_, ?_, ?_⟩
  · exact (ln_add_one_val hl).trans (by omega)
  · rw [rowInProgress_nil]; rfl
  · rw [rowInProgress_nil]; rfl
  · show s.out ++ (lineB s.lb s.inv).toList = _
    rw [hout, hlb, hinv, List.take_of_length_le (by omega), List.take_of_length_le (by omega), encodedLines, encodedLines,
      List.flatMap_append, List.flatMap_singleton]

theorem RowsTaken.eol {v : Bool} {Rs : List (List Byte)} {R : List Byte} {s : State} (h : RowsTaken v Rs R s) :
    ∃ t, exec .eol s = .next t ∧ RowsTaken v (Rs ++ [R]) [] t := by
  refine ⟨_, exec_eol_run_b h.ph h.dir, RowsTaken.ignoresResponse _ _ _ _ _ ?_⟩
  split
  · next hl => exact h.of_full (h.ln_eq_32_iff.mp hl)
  · next hl => exact h.closeRow hl

/-- `END` with no row open. -/
theorem RowsTaken.finished_endB_of_closed {v : Bool} {Rs : List (List Byte)} {R : List Byte} {s : State}
    (h : RowsTaken v Rs R s) (hrow : rowInProgress Rs R = []) : Finished (encodeRows Rs v) (endB s) := by
  obtain ⟨-, -, hinv, herr, hln, hwp, hlb, hout⟩ := h
  rw [hrow] at hwp hlb
  rw [endB_of_row_closed (Fin.ext hwp) hlb]
  refine ⟨rfl, rfl, herr, ?_, rfl, rfl⟩
  show s.out ++ _ = _
  rw [hout, hinv, hln, encodeRows_eq_encodedLines]

/-- `END`: an open row counts as the image's last one. -/
theorem RowsTaken.finished_endB {v : Bool} {Rs : List (List Byte)} {R : List Byte} {s : State} (h : RowsTaken v Rs R s) :
    Finished (encodeRows (Rs ++ [R]) v) (endB s) := by
  by_cases hfull : 32 ≤ Rs.length
  · rw [encodeRows_append hfull]
    exact h.finished_endB_of_closed (rowInProgress_of_ge hfull R)
  · have hrow := rowInProgress_of_lt (Nat.lt_of_not_le hfull) R
    by_cases hR : R = []
    · rw [hR, encodeRows_append_nil]
      exact h.finished_endB_of_closed (hrow.trans hR)
    · have hl : s.ln ≠ 32 := mt h.ln_eq_32_iff.mp hfull
      have hw : s.wp ≠ 0 := mt h.wp_eq_zero_iff.mp (by rwa [hrow])
      rw [endB_of_row_open hl hw]
      exact (h.closeRow hl).finished_endB_of_closed (rowInProgress_nil _)

theorem RowsTaken.endFrame {v : Bool} {Rs : List (List Byte)} {R : List Byte} {s : State} (h : RowsTaken v Rs R s) :
    ∃ t, exec .endFrame s = .next t ∧ Finished (encodeRows (Rs ++ [R]) v) t := by
  refine ⟨_, exec_endFrame_run h.ph, ?_⟩
  rw [endOpen_b h.dir]
  exact h.finished_endB

/-! ### `ENCODE` (R138) -/

theorem leads_pushes_b (v : Bool) (Rs : List (List Byte)) (R : List Byte) :
    Leads (RowsTaken v Rs []) (R.map Instr.push) (RowsTaken v Rs R) := by
  have hpush (Q : List Byte) (b : Byte) : Leads (RowsTaken v Rs Q) [.push b] (RowsTaken v Rs (Q ++ [b])) :=
    .command (RowsTaken.ignoresResponse v Rs Q) (RowsTaken.ignoresResponse v Rs _) fun _ => RowsTaken.push b
  rw [List.map_eq_flatMap]
  exact .flatMap (RowsTaken.ignoresResponse v Rs) hpush [] R

theorem leads_pushRow (v : Bool) (Rs : List (List Byte)) (R : List Byte) :
    Leads (RowsTaken v Rs []) (pushRow R) (RowsTaken v (Rs ++ [R]) []) :=
  (leads_pushes_b v Rs R).append
    (.command (RowsTaken.ignoresResponse v Rs R) (RowsTaken.ignoresResponse v _ []) fun _ => RowsTaken.eol)

theorem leads_start_b_rows (v : Bool) (Rs : List (List Byte)) :
    Leads Ready (.start .b v :: Rs.flatMap pushRow) (RowsTaken v Rs []) := by
  have hstart : Leads Ready [.start .b v] (RowsTaken v [] []) :=
    .command Ready.ignoresResponse (RowsTaken.ignoresResponse v [] []) fun _ => exec_start_b
  exact hstart.append
    (.flatMap (I := fun Qs => RowsTaken v Qs []) (fun Qs => RowsTaken.ignoresResponse v Qs []) (leads_pushRow v) [] Rs)

theorem leads_endFrame_b (v : Bool) (Rs : List (List Byte)) (R : List Byte) :
    Leads (RowsTaken v Rs R) [.endFrame] (Finished (encodeRows (Rs ++ [R]) v)) :=
  .command (RowsTaken.ignoresResponse v Rs R) (Finished.ignoresResponse _) fun _ => RowsTaken.endFrame

/-- A command of a frame: well formed, and no bystander. -/
def frameCommand (c : Instr) : Bool := c.wf && !bystander c

@[simp] theorem frameCommand_start (d : Dir) (v : Bool) : frameCommand (.start d v) = true := rfl
@[simp] theorem frameCommand_endFrame : frameCommand .endFrame = true := rfl

@[simp] theorem frameCommand_push (b : Byte) : frameCommand (.push b) = true := rfl
@[simp] theorem frameCommand_eol : frameCommand .eol = true := rfl

@[simp] theorem all_frameCommand_pushRow (R : List Byte) : (pushRow R).all frameCommand = true := by
  simp [pushRow]

/-- The run of the commands themselves, with nothing between them. -/
theorem Leads.runCommands_self {P Q : State → Prop} {ds : List Instr} {s : State} (h : Leads P ds Q)
    (hds : ds.all frameCommand = true) (hs : P s) : ∃ t, Machine.runCommands ds s = .next t ∧ Q t := by
  have hboth (d : Instr) (hd : d ∈ ds) : d.wf = true ∧ (!bystander d) = true :=
    Bool.and_eq_true_iff.mp (List.all_eq_true.mp hds d hd)
  exact h.runCommands (List.filter_eq_self.mpr fun d hd => (hboth d hd).2) (fun d hd => (hboth d hd).1) hs

/-- Settles O54: the state after every row is `RowsTaken`; an `END` that follows an `EOL` finds an empty row open. -/
theorem encodeSequenceComputesEncodeRows : Obligations.EncodeSequenceComputesEncodeRows := by
  intro s v Rs hs hp
  have hready := ready_of_legalState hs hp
  refine ⟨?lastRowClosed, fun R => ?lastRowOpen⟩
  case lastRowClosed =>
    have hrun := (leads_start_b_rows v Rs).append (leads_endFrame_b v Rs [])
    rw [encodeRows_append_nil] at hrun
    exact hrun.runCommands_self (by simp) hready
  case lastRowOpen =>
    have hrun := ((leads_start_b_rows v Rs).append (leads_pushes_b v Rs R)).append (leads_endFrame_b v Rs R)
    exact hrun.runCommands_self (by simp) hready

end Sys2Proof.Machine

/-! # Proofs of the status read family (43_status_read.md) -/

namespace Sys2Proof

/-! ### The words of `RD` (R150: 0x6000 plus the register number) -/

theorem encode_rdCtl (r : RegName) : encode (.rdCtl r) = 0x6000#16 + (regNumber r).setWidth 16 :=
  wordOf_eq_add 0x6#4 (regNumber r)

theorem encode_rdLbLow (r : RegName) : encode (.rdLbLow r) = 0x6000#16 + (regNumber r).setWidth 16 :=
  wordOf_eq_add 0x6#4 (regNumber r)

theorem encode_rdLbHigh (r : RegName) : encode (.rdLbHigh r) = 0x6000#16 + (regNumber r).setWidth 16 :=
  wordOf_eq_add 0x6#4 (regNumber r)

/-- A word of the `RD` opcode is read by its register number alone. -/
theorem decode_rd_add (n : Byte) : decode (0x6000#16 + n.setWidth 16) = decodeRegister n :=
  (congrArg decode (wordOf_eq_add 0x6#4 n)).symm.trans (decode_wordOf_rd n)

end Sys2Proof

namespace Sys2Proof.Machine

/-! ### `RD` in every phase, and what each register answers -/

theorem exec_rdCtl (r : RegName) (s : State) : exec (.rdCtl r) s = .next (respond (readReg s r) s) := rfl

theorem exec_rdLbLow (r : RegName) (s : State) : exec (.rdLbLow r) s = .next (respond (readReg s r) s) := rfl

theorem exec_rdLbHigh (r : RegName) (s : State) : exec (.rdLbHigh r) s = .next (respond (readReg s r) s) := rfl

/-- Six bits hold every value of `LN`. -/
theorem readReg_ln (s : State) : readReg s .ln = BitVec.ofNat 16 s.ln.val :=
  BitVec.setWidth_ofNat_of_le_of_lt (by decide) (by omega)

/-- Three bits hold every value of `WP`. -/
theorem readReg_wp (s : State) : readReg s .wp = BitVec.ofNat 16 s.wp.val :=
  BitVec.setWidth_ofNat_of_le_of_lt (by decide) (by omega)

/-- Nine bits hold the length of `OUT` (log entry 8). -/
theorem readReg_ocnt {s : State} (h : s.out.length < 512) : readReg s .ocnt = BitVec.ofNat 16 s.out.length :=
  BitVec.setWidth_ofNat_of_le_of_lt (by decide) h

/-- Settles O21: `RD` is a response alone, a counter is read in as many bits as hold it, and a number that is none of the ten
names no register. -/
theorem rdReadsEachRegister : Obligations.RdReadsEachRegister := by
  intro s
  refine ⟨exec_rdCtl .status s, ?ln, ?wp, fun hout => ?ocnt, exec_rdLbLow .lb0 s, exec_rdLbLow .lb1 s, exec_rdLbLow .lb2 s,
    exec_rdLbLow .lb3 s, exec_rdLbHigh .lb4 s, exec_rdLbHigh .lb5 s, encode_rdCtl .status, encode_rdCtl .ln,
    encode_rdCtl .wp, encode_rdCtl .ocnt, encode_rdLbLow .lb0, encode_rdLbLow .lb1, encode_rdLbLow .lb2,
    encode_rdLbLow .lb3, encode_rdLbHigh .lb4, encode_rdLbHigh .lb5, fun n hn => ?noRegister⟩
  case ln => rw [exec_rdCtl, readReg_ln, respond]
  case wp => rw [exec_rdCtl, readReg_wp, respond]
  case ocnt => rw [exec_rdCtl, readReg_ocnt (by omega), respond]
  case noRegister => rw [decode_rd_add, decodeRegister_of_not_mem hn]

end Sys2Proof.Machine

/-! # Proofs of the exceptions family (60_exceptions.md) -/

namespace Sys2Proof.Machine

/-! ### In `FAULT` (R161, R162, R163) -/

/-- In `FAULT` every command but `RST` is at most a response. -/
theorem exec_respond_of_fault {i : Instr} {s : State} (hr : i ≠ .rst) (hp : s.ph = .fault) :
    ∃ v, exec i s = .next (respond v s) := by
  cases hb : bystander i with
  | true => exact exec_bystander hb s
  | false => exact ⟨_, exec_of_fault hb hr hp⟩

/-- The events that give the reset state are hardware reset and the one word of `RST`. -/
theorem resetsBlock_iff {e : PortEvent} : resetsBlock e = true ↔ e = .reset ∨ e = .command 0x5000#16 := by
  cases e with
  | reset => simp [resetsBlock]
  | command w =>
    have hw : decode w = .command .rst ↔ w = 0x5000#16 :=
      decode_eq_command_iff.trans ((and_iff_right rfl).trans eq_comm)
    simp [resetsBlock, hw]

/-- A step on such an event gives the reset state, from every phase. -/
theorem step_atReset {s t : State} {e : PortEvent} {rest : List PortEvent} (hin : s.input = e :: rest)
    (he : resetsBlock e = true) (hs : step s = .next t) : AtReset t := by
  cases e with
  | reset =>
    cases (step_reset hin).symm.trans hs
    exact atReset_toReset _
  | command w =>
    have hd : decode w = .command .rst := by simpa [resetsBlock] using he
    cases (step_command hin hd).symm.trans hs
    exact atReset_respondStatus (atReset_toReset _)

/-- Any other step from `FAULT`, a wait included, stays there and keeps the error code. -/
theorem step_keeps_fault {s t : State} (hp : s.ph = .fault)
    (hno : ∀ e rest, s.input = e :: rest → resetsBlock e = false) (hs : step s = .next t) :
    t.ph = .fault ∧ t.err = s.err ∧ t.input = s.input.tail := by
  rcases step_cases s with ⟨hin, e⟩ | ⟨rest, hin, -⟩ | ⟨w, rest, i, hin, hd, e⟩ | ⟨w, rest, why, -, -, e⟩
  · cases e.symm.trans hs
    exact ⟨hp, rfl, by simp [hin]⟩
  · cases hno _ _ hin
  · have hr : i ≠ .rst := fun hi => by simpa [resetsBlock, hd, hi] using hno _ _ hin
    obtain ⟨v, hv⟩ := exec_respond_of_fault (s := takeEvent s) hr hp
    cases (e.trans hv).symm.trans hs
    exact ⟨hp, rfl, rfl⟩
  · rw [takeReserved_fault (s := takeEvent s) hp] at e
    cases e.symm.trans hs
    exact ⟨hp, rfl, rfl⟩

/-- Settles O27: what `FAULT` ignores is its response, and so is every bystander. -/
theorem faultIgnoresFrameCommands : Obligations.FaultIgnoresFrameCommands := by
  refine fun s hp => ⟨fun d v => exec_of_fault rfl (by simp) hp, fun b => exec_push_fault b hp, exec_eol_fault hp,
    exec_of_fault rfl (by simp) hp, fun w rest why hin hd => ?reserved, nopOnlyAnswersStatus.2 s, fun b => exec_mir b s,
    fun r => exec_rdCtl r s, fun r => exec_rdLbLow r s, fun r => exec_rdLbHigh r s⟩
  case reserved =>
    rw [step_reserved hin hd, takeReserved_fault (s := takeEvent s) hp, takeEvent_eq hin]
    rfl

/-- Settles O28: the next event resets the block, or the step stays in `FAULT`. -/
theorem onlyResetLeavesFault : Obligations.OnlyResetLeavesFault := by
  intro s t hp hs
  simp only [← resetsBlock_iff]
  by_cases hreset : ∃ e rest, s.input = e :: rest ∧ resetsBlock e = true
  · obtain ⟨e, rest, hin, he⟩ := hreset
    have ht : AtReset t := step_atReset hin he hs
    exact ⟨iff_of_true (by simp [ht.1]) ⟨e, rest, hin, he⟩, fun _ => ht⟩
  · have hno : ∀ e rest, s.input = e :: rest → resetsBlock e = false := fun e rest hin =>
      Bool.eq_false_of_not_eq_true fun he => hreset ⟨e, rest, hin, he⟩
    obtain ⟨ht, -⟩ := step_keeps_fault hp hno hs
    exact ⟨iff_of_false (absurd ht) hreset, fun h => absurd ht h⟩

/-- Settles O29, by induction on the number of steps: each takes one of the events that hold no reset. -/
theorem firstErrorIsKept : Obligations.FirstErrorIsKept := by
  intro s t k
  induction k generalizing s with
  | zero =>
    intro hp _ hrun
    cases hrun
    exact ⟨hp, rfl⟩
  | succ k ih =>
    intro hp hno hrun
    obtain ⟨u, hs, hrun⟩ := run_succ_inv hrun
    obtain ⟨hu, herr, hin⟩ := step_keeps_fault hp (fun e rest he => hno e (by simp [he])) hs
    have hrest : ∀ e ∈ u.input.take k, resetsBlock e = false := fun e he =>
      hno e (List.mem_of_mem_tail (by rwa [List.tail_take_eq_take_tail, ← hin, Nat.add_sub_cancel]))
    rw [← herr]
    exact ih u hu hrest hrun

/-! ### Into `FAULT` (R160) -/

/-- A command that enters `FAULT` has taken an error, and done nothing else. -/
theorem CommandEffect.enters_fault {s t : State} {i : Instr} (h : CommandEffect s i t) (hp : s.ph ≠ .fault)
    (ht : t.ph = .fault) : ∃ code, code ≠ .none ∧ t = respondStatus (raiseError code s) := by
  cases h with
  | notPermitted => exact ⟨.eSeq, by simp, rfl⟩
  | tooLong | tooShort => exact ⟨.eLen, by simp, rfl⟩
  | reset | opened | finishedA | finishedB => cases ht
  | bystander | ignored | stored | lineA | lineFull | dropped | eolDropped | lineB => exact absurd ht hp

/-- So has a step, whether on a command or on a reserved word. -/
theorem step_enters_fault {s t : State} (hs : step s = .next t) (hp : s.ph ≠ .fault) (ht : t.ph = .fault) :
    ∃ code, code ≠ .none ∧ t = respondStatus (raiseError code (takeEvent s)) := by
  rcases step_cases s with ⟨-, e⟩ | ⟨rest, -, e⟩ | ⟨w, rest, i, -, -, e⟩ | ⟨w, rest, why, -, -, e⟩
  · cases e.symm.trans hs
    exact absurd ht hp
  · cases e.symm.trans hs
    cases ht
  · exact (exec_effect (e ▸ hs)).enters_fault hp ht
  · rw [takeReserved_not_fault (s := takeEvent s) hp] at e
    cases e.symm.trans hs
    exact ⟨.eIll, by simp, rfl⟩

/-- Settles O26: `raiseError` writes the three fields. -/
theorem errorEntryWritesThreeFields : Obligations.ErrorEntryWritesThreeFields := by
  intro s t hs hp ht
  obtain ⟨code, hcode, rfl⟩ := step_enters_fault hs hp ht
  exact ⟨hcode, rfl⟩

/-! ### Which error a command takes (R156, R158) -/

/-- The command that shows an open Direction A frame to have a wrong length. -/
def ShowsWrongLength (i : Instr) (s : State) : Prop :=
  s.ph = .run ∧ s.dir = .a ∧ ((∃ b, i = .push b ∧ s.ln = 32) ∨ (i = .endFrame ∧ ¬(s.ln = 32 ∧ s.wp = 0)))

/-- A command leaves `ERR`, clears it as `RST`, or takes `E_SEQ` or `E_LEN`, each for its own reason. -/
theorem CommandEffect.err_cases {s t : State} {i : Instr} (h : CommandEffect s i t) :
    t.err = s.err ∨ t.err = .none ∨ (permitted i s = false ∧ t.err = .eSeq) ∨ (ShowsWrongLength i s ∧ t.err = .eLen) := by
  cases h with
  | reset => exact .inr (.inl rfl)
  | notPermitted _ hn => exact .inr (.inr (.inl ⟨hn, rfl⟩))
  | tooLong b hp hd hl => exact .inr (.inr (.inr ⟨⟨hp, hd, .inl ⟨b, rfl, hl⟩⟩, rfl⟩))
  | tooShort hp hd hl => exact .inr (.inr (.inr ⟨⟨hp, hd, .inr ⟨rfl, hl⟩⟩, rfl⟩))
  | finishedB => exact .inl (by simp)
  | _ => exact .inl rfl

theorem exec_err_of_showsWrongLength {i : Instr} {s t : State} (hw : ShowsWrongLength i s) (h : exec i s = .next t) :
    t.err = .eLen := by
  obtain ⟨hp, hd, ⟨b, rfl, hl⟩ | ⟨rfl, hl⟩⟩ := hw
  · have hphase := exec_push_run_phase h hp
    rw [if_pos ⟨hd, hl⟩] at hphase
    exact hphase.2
  · have hphase := exec_endFrame_run_phase h hp
    rw [if_neg (by simpa [hd] using hl)] at hphase
    exact hphase.2

/-- A permitted command does not bring `ERR` to `E_SEQ`, and one not permitted does, whatever condition `P` the permission is
written as. -/
theorem exec_eSeq_of_permitted_iff {i : Instr} {s : State} {P : Prop} (hP : permitted i s = true ↔ P) (hp : s.ph ≠ .fault) :
    (P → ∀ t, exec i s = .next t → t.err = .eSeq → s.err = .eSeq) ∧
    (¬P → exec i s = .next (respondStatus (raiseError .eSeq s))) := by
  refine ⟨fun hm t h ht => ?_, fun hn => exec_of_not_permitted hp (Bool.eq_false_of_not_eq_true fun hm => hn (hP.mp hm))⟩
  rcases (exec_effect h).err_cases with e | e | ⟨hn, -⟩ | ⟨-, e⟩
  · exact e ▸ ht
  · simp [e] at ht
  · simp [hP.mpr hm] at hn
  · simp [e] at ht

/-- Settles O24: the table, row by row, is `permitted`. -/
theorem sequenceErrorExactlyWhereNotPermitted : Obligations.SequenceErrorExactlyWhereNotPermitted := by
  intro s i hp
  refine exec_eSeq_of_permitted_iff ?_ hp
  cases i with
  | nop | rst | mir b | rdCtl r | rdLbLow r | rdLbHigh r => exact iff_of_true rfl trivial
  | start d v | push b | endFrame => exact beq_iff_eq
  | eol => simp [permitted]

/-- A legal open Direction A frame holds 192 bytes exactly when 32 lines are complete and no byte waits (10_state.md R34). -/
theorem LegalState.bytes_eq_192_iff {s : State} (h : LegalState s) (hp : s.ph = .run) (hd : s.dir = .a) :
    6 * s.ln.val + s.wp.val = 192 ↔ s.ln = 32 ∧ s.wp = 0 := by
  have hwp := (h.spec.run_a hp hd).1
  rw [Fin.ext_iff, Fin.ext_iff]
  show _ ↔ s.ln.val = 32 ∧ s.wp.val = 0
  omega

theorem LegalState.showsWrongLength_iff {s : State} (h : LegalState s) (i : Instr) : ShowsWrongLength i s ↔
    s.ph = .run ∧ s.dir = .a ∧
      ((∃ b, i = .push b ∧ s.ln = 32) ∨ (i = .endFrame ∧ 6 * s.ln.val + s.wp.val ≠ 192)) :=
  and_congr_right fun hp => and_congr_right fun hd => or_congr_right (and_congr_right fun _ =>
    not_congr (h.bytes_eq_192_iff hp hd).symm)

/-- Settles O25: no other effect of a command brings `ERR` to `E_LEN`. -/
theorem lengthErrorExactlyAtAWrongLength : Obligations.LengthErrorExactlyAtAWrongLength := by
  intro s t i hlegal herr h
  rw [← hlegal.showsWrongLength_iff i]
  refine ⟨fun ht => ?_, fun hw => exec_err_of_showsWrongLength hw h⟩
  rcases (exec_effect h).err_cases with e | e | ⟨-, e⟩ | ⟨hw, -⟩
  · exact absurd (e ▸ ht) herr
  · simp [e] at ht
  · simp [e] at ht
  · exact hw

end Sys2Proof.Machine

/-! # Proofs of the reset and hazards family (70_reset_and_hazards.md) -/

namespace Sys2Proof.Machine

/-! ### The two resets, each as a step (R178) -/

theorem step_reset_eq {s : State} {rest : List PortEvent} (h : s.input = .reset :: rest) :
    step s = .next { State.reset with input := rest } := by
  rw [step_reset h, takeEvent_eq h, toReset]

theorem step_rst_eq {s : State} {rest : List PortEvent} (h : s.input = .command 0x5000#16 :: rest) :
    step s = .next { State.reset with input := rest, resp := some 0x0000#16 } := by
  have hd : decode 0x5000#16 = .command .rst := by decide
  obtain ⟨-, -, hexec⟩ := rstReturnsToTheResetState
  rw [step_command h hd, hexec, takeEvent_eq h]
  rfl

/-- Settles O7: the two steps reach the reset state with the same events to come, and differ in the response alone. -/
theorem hardwareResetAndRstAgree : Obligations.HardwareResetAndRstAgree := by
  intro s t u rest hreset hrst
  cases (step_reset_eq rfl).symm.trans hreset
  cases (step_rst_eq rfl).symm.trans hrst
  exact ⟨rfl, rfl⟩

end Sys2Proof.Machine

/-! # Proofs of the remaining family: the encoding, the step, the invariant, the output -/

namespace Sys2Proof

/-! ### Words and commands (30_encoding.md R70 to R73) -/

/-- Settles O1, by the command's row. -/
theorem decodeOfEncodeIsTheCommand : Obligations.DecodeOfEncodeIsTheCommand := fun _ => decode_encode

/-- Settles O2, by the tests of `decode`: each fixes the bits that its row fixes. -/
theorem decodedWordIsTheCommandsOnlyWord : Obligations.DecodedWordIsTheCommandsOnlyWord := fun _ _ =>
  decode_eq_command_iff.mp

/-- Settles O5: `decode` computes on a word written out. -/
theorem sampleWordsDecodeToTheirCommands : Obligations.SampleWordsDecodeToTheirCommands := by
  unfold Obligations.SampleWordsDecodeToTheirCommands
  decide

end Sys2Proof

namespace Sys2Proof.Machine

/-! ### The invariant (10_state.md R34) -/

/-- Settles O36, by the cases of a step and of a command's effect. -/
theorem everyStepKeepsTheInvariant : Obligations.EveryStepKeepsTheInvariant := fun _ _ => step_keeps_legalState

/-- Settles O35: a state with the reset values is legal, item by item. -/
theorem invariantHoldsAtReset : Obligations.InvariantHoldsAtReset := legalState_of_atReset atReset_reset

/-! ### The step is total (10_state.md R20) -/

theorem guarded_goes (i : Instr) (s : State) {o : StepOutcome} (ho : Goes o) : Goes (guarded i s o) := by
  rcases guarded_cases i s o with ⟨-, e⟩ | ⟨-, -, e⟩ | ⟨-, -, e⟩
  · exact ⟨_, e⟩
  · exact ⟨_, e⟩
  · rwa [e]

theorem exec_goes (i : Instr) (s : State) : Goes (exec i s) := by
  cases i with
  | nop | rst | mir b | rdCtl r | rdLbLow r | rdLbHigh r => exact ⟨_, rfl⟩
  | start d v | push b | eol | endFrame => exact guarded_goes _ s ⟨_, rfl⟩

theorem step_goes (s : State) : Goes (step s) := by
  rcases step_cases s with ⟨-, e⟩ | ⟨rest, -, e⟩ | ⟨w, rest, i, -, -, e⟩ | ⟨w, rest, why, -, -, e⟩
  · exact ⟨_, e⟩
  · exact ⟨_, e⟩
  · exact e ▸ exec_goes i (takeEvent s)
  · exact ⟨_, e⟩

/-- Settles O38: no case of a step or of a command stops. -/
theorem everyStepAnswersANextState : Obligations.EveryStepAnswersANextState := ⟨step_goes, exec_goes⟩

/-! ### What a step takes from the ports (30_encoding.md R80) -/

/-- Settles O10: the state that `exec` gets is the one with the event taken. -/
theorem stepRunsTheDecodedCommand : Obligations.StepRunsTheDecodedCommand := fun s w rest i hin hd => by
  rw [step_command hin hd, takeEvent_eq hin]

theorem step_nothing {s : State} (h : s.input = []) : step s = .next (awaitCommand s) := by
  simp only [step, h]

/-- Settles O11: `awaitCommand` drops the response. -/
theorem stepWaitsWhenNothingIsPresented : Obligations.StepWaitsWhenNothingIsPresented := fun _ => step_nothing

/-- Settles O59: a wait and a hardware reset are the only steps without a command word. -/
theorem stepWithoutACommandHoldsNoResponse : Obligations.StepWithoutACommandHoldsNoResponse := by
  intro s hno
  rcases step_cases s with ⟨-, e⟩ | ⟨rest, -, e⟩ | ⟨w, rest, i, hin, -⟩ | ⟨w, rest, why, hin, -⟩
  · exact ⟨_, e, rfl⟩
  · exact ⟨_, e, rfl⟩
  · exact absurd hin (hno w rest)
  · exact absurd hin (hno w rest)

/-! ### A step sees nothing of what the host presents after it (20_memory.md R58) -/

theorem present_of_input_nil {s : State} (h : s.input = []) (evs : List PortEvent) :
    present evs s = { s with input := evs } := by
  rw [present, h, List.append_nil]

/-- A command leaves the ports' events to the steps that come. -/
theorem CommandEffect.input_eq {s t : State} {i : Instr} (h : CommandEffect s i t) : t.input = s.input := by
  cases h with
  | finishedB => simp
  | _ => rfl

theorem takeReserved_present (evs : List PortEvent) (s : State) :
    takeReserved (present evs s) = present evs (takeReserved s) := by
  by_cases hp : s.ph = .fault
  · rw [takeReserved_fault hp, takeReserved_fault (s := present evs s) hp]
    rfl
  · rw [takeReserved_not_fault hp, takeReserved_not_fault (s := present evs s) hp]
    rfl

theorem takeReserved_input (s : State) : (takeReserved s).input = s.input := by
  unfold takeReserved
  split <;> rfl

/-- What a step does with one event presented, it does with more behind it. -/
theorem step_with_later {s t : State} {e : PortEvent} (h : step { s with input := [e] } = .next t)
    (later : List PortEvent) : step { s with input := e :: later } = .next { t with input := later } := by
  have htaken : present later { s with input := [] } = { s with input := later } := present_of_input_nil rfl later
  cases e with
  | reset => cases h; rfl
  | command w =>
    cases hd : decode w with
    | command i =>
      have he : exec i { s with input := [] } = .next t := (step_command rfl hd).symm.trans h
      have hlater := exec_present later he
      rw [htaken, present_of_input_nil (exec_effect he).input_eq] at hlater
      exact (step_command rfl hd).trans hlater
    | reserved why =>
      have ht : takeReserved { s with input := [] } = t :=
        Host.Outcome.next.inj ((step_reserved rfl hd).symm.trans h)
      have hlater := takeReserved_present later { s with input := [] }
      rw [htaken, present_of_input_nil (takeReserved_input _), ht] at hlater
      exact (step_reserved rfl hd).trans (congrArg Host.Outcome.next hlater)

/-- Settles O12: the step with the one event answers a next state, and so `step_with_later` applies. -/
theorem laterEventsDoNotAffectAStep : Obligations.LaterEventsDoNotAffectAStep := by
  intro s e later
  obtain ⟨t, ht⟩ := step_goes { s with input := [e] }
  rw [step_with_later ht later, ht]

/-! ### A line's bytes in `OUT` (41_line_datapath.md R110, R111) -/

theorem length_completeLineA_out (s : State) : (completeLineA s).out.length = s.out.length + 8 := by
  simp

theorem length_completeLineB_out (s : State) : (completeLineB s).out.length = s.out.length + 6 := by
  simp

/-- An open Direction A frame whose line is full completes it and stores nothing (log entry 6). -/
theorem completeIfFull_storeByte_full (b : Byte) {s : State} (hw : s.wp = 6) :
    completeIfFull (storeByte b s) = completeLineA s := by
  rw [storeByte_of_full b hw, completeIfFull, if_pos hw]

/-- Settles O17, by `completeLineA_eq`. -/
theorem pushOnAFullLineCompletesIt : Obligations.PushOnAFullLineCompletesIt := by
  intro s b hp hd hl hw
  rw [exec_push_run b hp, pushOpen_a b hd hl, completeIfFull_storeByte_full b hw, completeLineA_eq hl, clearedLine]

/-! ### The value of a pushed byte (R106, corner cases) -/

/-- The two states agree in every field of the block but `LB` and the bytes of `OUT`. -/
structure SameControl (t u : State) : Prop where
  ph : t.ph = u.ph
  dir : t.dir = u.dir
  inv : t.inv = u.inv
  done : t.done = u.done
  err : t.err = u.err
  wp : t.wp = u.wp
  ln : t.ln = u.ln
  out : t.out.length = u.out.length

theorem SameControl.refl (s : State) : SameControl s s := ⟨rfl, rfl, rfl, rfl, rfl, rfl, rfl, rfl⟩

/-- `STATUS` shows control fields alone (10_state.md R32). -/
theorem SameControl.status_eq {t u : State} (h : SameControl t u) : status t = status u := by
  rw [status, status, dirField, dirField, h.err, h.inv, h.dir, h.done, h.ph]

theorem SameControl.completeIfFull {t u : State} (h : SameControl t u) :
    SameControl (completeIfFull t) (completeIfFull u) := by
  rw [Machine.completeIfFull, Machine.completeIfFull, h.wp]
  split
  · exact { h with
      wp := rfl
      ln := congrArg nextLn h.ln
      out := by rw [length_completeLineA_out, length_completeLineA_out, h.out] }
  · exact h

theorem sameControl_storeByte (b c : Byte) (s : State) : SameControl (storeByte b s) (storeByte c s) :=
  ⟨rfl, rfl, rfl, rfl, rfl, rfl, rfl, rfl⟩

theorem sameControl_pushOpen (b c : Byte) (s : State) : SameControl (pushOpen b s) (pushOpen c s) := by
  unfold pushOpen
  cases s.dir with
  | a =>
    simp only [pushA]
    split
    · exact .refl _
    · exact (sameControl_storeByte b c s).completeIfFull
  | b =>
    simp only [pushB]
    split
    · exact .refl _
    · split
      · exact .refl _
      · exact sameControl_storeByte b c s

/-- In `IDLE` and `FAULT` the byte makes no difference at all. -/
theorem exec_push_eq_of_not_run (b c : Byte) {s : State} (hp : s.ph ≠ .run) : exec (.push b) s = exec (.push c) s := by
  cases h : s.ph with
  | idle => rw [exec_push_idle b h, exec_push_idle c h]
  | run => exact absurd h hp
  | fault => rw [exec_push_fault b h, exec_push_fault c h]

/-- Settles O23: outside `RUN` the two steps are the same one, and in `RUN` the two states have the same control. -/
theorem pushedValueNeverAffectsControl : Obligations.PushedValueNeverAffectsControl := by
  intro s b c
  by_cases hp : s.ph = .run
  · have h := sameControl_pushOpen b c s
    exact ⟨_, _, exec_push_run b hp, exec_push_run c hp, h.ph, h.dir, h.inv, h.done, h.err, h.wp, h.ln, h.out,
      congrArg some h.status_eq⟩
  · obtain ⟨t, ht⟩ := exec_goes (.push b) s
    exact ⟨t, t, ht, (exec_push_eq_of_not_run b c hp).symm.trans ht, rfl, rfl, rfl, rfl, rfl, rfl, rfl, rfl, rfl⟩

/-! ### Who writes `DONE` (10_state.md R29) -/

theorem LegalState.done_of_not_idle {s : State} (h : LegalState s) (hp : s.ph ≠ .idle) : s.done = false :=
  Bool.eq_false_of_not_eq_true fun hd => hp (h.spec.done_frame hd).1

/-- A command that leaves `DONE = 1` is an `END` that set it, or a bystander. -/
theorem CommandEffect.end_or_bystander_of_done {s t : State} {i : Instr} (hs : LegalState s) (h : CommandEffect s i t)
    (ht : t.done = true) : (s.ph = .run ∧ i = .endFrame) ∨ (Machine.bystander i = true ∧ ∃ v, t = respond v s) := by
  have hidle (hd : s.done = true) : s.ph = .idle := (hs.spec.done_frame hd).1
  cases h with
  | bystander v hb => exact .inr ⟨hb, v, rfl⟩
  | finishedA hp | finishedB hp => exact .inl ⟨hp, rfl⟩
  | reset | notPermitted | opened | tooLong | tooShort => cases ht
  | ignored _ _ hp => exact absurd (hidle ht) (by simp [hp])
  | stored b hp | lineA b hp | lineFull b hp | dropped b hp | eolDropped hp | lineB hp =>
    exact absurd (hidle ht) (by simp [hp])

theorem takeReserved_done {s : State} (h : LegalState s) : (takeReserved s).done = false := by
  by_cases hp : s.ph = .fault
  · rw [takeReserved_fault hp]
    exact h.done_of_not_idle (by simp [hp])
  · rw [takeReserved_not_fault hp]
    rfl

/-- Settles O32, by the cases of a step; in a legal state only `IDLE` has `DONE = 1`. -/
theorem doneIsSetByEndAloneAndKeptByBystanders : Obligations.DoneIsSetByEndAloneAndKeptByBystanders := by
  intro s t hlegal hs ht
  rcases step_cases s with ⟨hin, e⟩ | ⟨rest, -, e⟩ | ⟨w, rest, i, hin, hd, e⟩ | ⟨w, rest, why, -, -, e⟩
  · cases e.symm.trans hs
    exact .inr ⟨ht, rfl, .inl hin⟩
  · cases e.symm.trans hs
    cases ht
  · rw [← encode_of_decode hd] at hin
    rcases (exec_effect (e ▸ hs)).end_or_bystander_of_done (legalState_takeEvent hlegal) ht with ⟨hp, rfl⟩ | ⟨hb, v, rfl⟩
    · exact .inl ⟨hlegal.done_of_run hp, hp, rest, hin⟩
    · exact .inr ⟨ht, rfl, .inr ⟨i, rest, hb, hin⟩⟩
  · cases e.symm.trans hs
    simp [takeReserved_done (legalState_takeEvent hlegal)] at ht

/-! ### What becomes of `OUT` (10_state.md R31; 70_reset_and_hazards.md R181) -/

/-- A command extends `OUT`, by nothing in most cases, unless it is `RST` or `START` in `IDLE`. -/
theorem CommandEffect.out_cases {s t : State} {i : Instr} (h : CommandEffect s i t) :
    (∃ bs, t.out = s.out ++ bs) ∨ (t.out = [] ∧ (i = .rst ∨ (s.ph = .idle ∧ ∃ d v, i = .start d v))) := by
  cases h with
  | reset => exact .inr ⟨rfl, .inl rfl⟩
  | opened d v hp => exact .inr ⟨rfl, .inr ⟨hp, d, v, rfl⟩⟩
  | lineA | lineFull | lineB => exact .inl ⟨_, rfl⟩
  | finishedB => exact .inl (endB_out s)
  | bystander | ignored | notPermitted | tooLong | stored | dropped | eolDropped | finishedA | tooShort =>
    exact .inl ⟨[], (List.append_nil _).symm⟩

theorem takeReserved_out (s : State) : (takeReserved s).out = s.out := by
  unfold takeReserved
  split <;> rfl

/-- Settles O33, by the cases of a step and of a command's effect. -/
theorem outputIsOnlyAppendedTo : Obligations.OutputIsOnlyAppendedTo := by
  intro s t hs
  rcases step_cases s with ⟨-, e⟩ | ⟨rest, hin, e⟩ | ⟨w, rest, i, hin, hd, e⟩ | ⟨w, rest, why, -, -, e⟩
  · cases e.symm.trans hs
    exact .inl ⟨[], (List.append_nil _).symm⟩
  · cases e.symm.trans hs
    exact .inr ⟨rfl, _, rest, hin, .inl rfl⟩
  · rcases (exec_effect (e ▸ hs)).out_cases with happended | ⟨hout, rfl | ⟨hp, d, v, rfl⟩⟩
    · exact .inl happended
    · exact .inr ⟨hout, _, rest, hin, .inl (by simp [resetsBlock, hd])⟩
    · exact .inr ⟨hout, _, rest, hin, .inr ⟨hp, d, v, by rw [encode_of_decode hd]⟩⟩
  · cases e.symm.trans hs
    exact .inl ⟨[], by rw [takeReserved_out, takeEvent_out, List.append_nil]⟩

/-- The sixth byte of a line, and no other, brings its row. -/
theorem length_out_of_push_a {s t : State} {b : Byte} (hp : s.ph = .run) (hdir : s.dir = .a)
    (h : exec (.push b) s = .next t) :
    t.out.length = if s.ln ≠ 32 ∧ 5 ≤ s.wp.val then s.out.length + 8 else s.out.length := by
  cases exec_effect h with
  | bystander v hb => cases hb
  | ignored hb hr hf => simp [hp] at hf
  | notPermitted hf hn => simp [permitted, hp] at hn
  | tooLong b _ hd hl => rw [if_neg fun hc => hc.1 hl]; rfl
  | stored b _ hl hw hd => rw [if_neg fun hc => Nat.not_le_of_lt (hd hdir) hc.2]; rfl
  | lineA b _ hd hl hw => rw [if_pos ⟨hl, hw.ge⟩]; exact length_completeLineA_out _
  | lineFull b _ hd hl hw => rw [if_pos ⟨hl, by simp [hw]⟩]; exact length_completeLineA_out s
  | dropped b _ hd hl => simp [hdir] at hd

theorem pushOpen_b_out (b : Byte) {s : State} (hd : s.dir = .b) : (pushOpen b s).out = s.out := by
  by_cases h : s.ln = 32 ∨ s.wp = 6
  · rw [pushOpen_b_dropped b hd h]
  · obtain ⟨hl, hw⟩ := not_or.mp h
    rw [pushOpen_b b hd hl hw]
    rfl

/-- Settles O34: a row comes with the byte that fills its line in Direction A, with `EOL` in Direction B. -/
theorem outputLagsInputByALine : Obligations.OutputLagsInputByALine := by
  refine ⟨fun s t b => length_out_of_push_a, fun s t b hp hd h => ?pushB, fun s t hp hd h => ?eol⟩
  case pushB =>
    cases (exec_push_run b hp).symm.trans h
    exact pushOpen_b_out b hd
  case eol =>
    cases (exec_eol_run_b hp hd).symm.trans h
    rw [respondStatus_out]
    split
    · rfl
    · exact length_completeLineB_out s

/-! ### `decodeBlock` on one block (42_frame_control.md R135) -/

theorem length_decodedRows (D : List Byte) (v : Bool) (n : Nat) : (decodedRows D v n).length = 8 * n := by
  rw [decodedRows, length_flatMap_of_length (fun _ => Vector.length_toList), List.length_range]

theorem getElem?_decodedRows (D : List Byte) (v : Bool) {n l j : Nat} (hl : l < n) (hj : j < 8) :
    (decodedRows D v n)[8 * l + j]? = (lineA (deviceLine D l) v).toList[j]? :=
  getElem?_flatMap_range (fun _ => Vector.length_toList) hl hj

theorem getElem_deviceLine (D : List Byte) (l : Nat) (i : Fin 6) :
    (deviceLine D l)[i] = D.getD (6 * l + i.val) 0x00#8 := by
  rw [deviceLine, getElem_fit6, List.getD_eq_getElem?_getD, List.getElem?_drop, List.getD_eq_getElem?_getD]
  rfl

theorem getElem?_toList_lineA (L : Vector Byte 6) (v : Bool) (j : Fin 6) :
    (lineA L v).toList[j.val]? = some (lineCore L v)[j] := by
  rw [toList_lineA, List.getElem?_append_left (by simp), getElem?_toList_line]

/-- Settles O50: row `l` is `lineA` of line `l`, whose bytes are `6l` to `6l + 5`. -/
theorem decodeBlockByteByByte : Obligations.DecodeBlockByteByByte := by
  refine fun D v => ⟨fun h => if_neg h, fun h => ⟨_, decodeBlock_eq_decodedRows h v, length_decodedRows D v 32,
    fun l => ⟨fun j => ?content, getElem?_decodedRows D v l.isLt (by omega), getElem?_decodedRows D v l.isLt (by omega)⟩⟩⟩
  case content =>
    have hrev : 6 * l.val + (5 - j.val) = 6 * l.val + 5 - j.val := by omega
    rw [getElem?_decodedRows D v l.isLt (by omega), getElem?_toList_lineA, getElem_lineCore, getElem_deviceLine, Fin.val_rev,
      Nat.sub_add_eq, Nat.sub_right_comm, hrev]
    rfl

/-! ### Words and bytes (20_memory.md R56) -/

/-- A byte appended below moves the others up by eight bits. -/
theorem extractLsb'_append_byte {n : Nat} (x : BitVec n) (b : Byte) (k : Nat) :
    (x ++ b).extractLsb' (8 + k) 8 = x.extractLsb' k 8 := by
  rw [BitVec.extractLsb'_append_eq_of_le (Nat.le_add_right 8 k), Nat.add_sub_cancel_left]

theorem wordBytes_append (a b c d : Byte) : wordBytes (a ++ b ++ c ++ d) = [a, b, c, d] := by
  have ha : (a ++ b ++ c ++ d).extractLsb' 24 8 = a := by
    rw [extractLsb'_append_byte _ d 16, extractLsb'_append_byte _ c 8, BitVec.extractLsb'_append_eq_left]
  have hb : (a ++ b ++ c ++ d).extractLsb' 16 8 = b := by
    rw [extractLsb'_append_byte _ d 8, extractLsb'_append_byte _ c 0, BitVec.extractLsb'_append_eq_right]
  have hc : (a ++ b ++ c ++ d).extractLsb' 8 8 = c := by
    rw [extractLsb'_append_byte _ d 0, BitVec.extractLsb'_append_eq_right]
  rw [wordBytes, ha, hb, hc, BitVec.extractLsb'_append_eq_right]

/-- A word is its four bytes, the most significant first. -/
theorem append_wordBytes (w : Word32) :
    w.extractLsb' 24 8 ++ w.extractLsb' 16 8 ++ w.extractLsb' 8 8 ++ w.extractLsb' 0 8 = w := by
  have h₁ : w.extractLsb' 24 8 ++ w.extractLsb' 16 8 = w.extractLsb' 16 16 :=
    BitVec.extractLsb'_append_extractLsb'_eq_extractLsb' rfl
  have h₂ : w.extractLsb' 16 16 ++ w.extractLsb' 8 8 = w.extractLsb' 8 24 :=
    BitVec.extractLsb'_append_extractLsb'_eq_extractLsb' rfl
  have h₃ : w.extractLsb' 8 24 ++ w.extractLsb' 0 8 = w.extractLsb' 0 32 :=
    BitVec.extractLsb'_append_extractLsb'_eq_extractLsb' rfl
  rw [h₁, h₂, h₃, BitVec.extractLsb'_eq_self]

theorem length_wordsOfBytes : ∀ D : List Byte, (wordsOfBytes D).length = D.length / 4
  | [] | [_] | [_, _] | [_, _, _] => by simp [wordsOfBytes]
  | _ :: _ :: _ :: _ :: rest => by
    rw [wordsOfBytes, List.length_cons, length_wordsOfBytes rest]
    exact (Nat.add_div_right rest.length (by omega)).symm

/-- Bytes that are a whole number of words are the bytes of those words. -/
theorem bytesOfWords_wordsOfBytes : ∀ D : List Byte, D.length % 4 = 0 → bytesOfWords (wordsOfBytes D) = D
  | [], _ => rfl
  | [_], h | [_, _], h | [_, _, _], h => by simp at h
  | a :: b :: c :: d :: rest, h => by
    have hrest : rest.length % 4 = 0 := (Nat.add_mod_right rest.length 4).symm.trans h
    rw [wordsOfBytes, bytesOfWords, List.flatMap_cons, wordBytes_append, ← bytesOfWords, bytesOfWords_wordsOfBytes rest hrest]
    rfl

/-- Word `n` is made of bytes `4n` to `4n + 3`. -/
theorem getElem?_wordsOfBytes : ∀ (D : List Byte) (n : Nat), 4 * n + 3 < D.length → (wordsOfBytes D)[n]? =
    some (D.getD (4 * n) 0 ++ D.getD (4 * n + 1) 0 ++ D.getD (4 * n + 2) 0 ++ D.getD (4 * n + 3) 0)
  | [], _, h | [_], _, h | [_, _], _, h | [_, _, _], _, h => by simp at h
  | _ :: _ :: _ :: _ :: _, 0, _ => rfl
  | _ :: _ :: _ :: _ :: rest, n + 1, h => getElem?_wordsOfBytes rest n (by simp only [List.length_cons] at h; omega)

theorem wordsOfBytes_bytesOfWords (ws : List Word32) : wordsOfBytes (bytesOfWords ws) = ws := by
  induction ws with
  | nil => rfl
  | cons w ws ih =>
    rw [bytesOfWords, List.flatMap_cons, ← bytesOfWords]
    exact congrArg₂ List.cons (append_wordBytes w) ih

/-- Settles O52: 192 is 48 whole words. -/
theorem wordsSerialiseBigEndian : Obligations.WordsSerialiseBigEndian := by
  refine ⟨fun D h => ⟨?_, bytesOfWords_wordsOfBytes D (by omega), fun n => getElem?_wordsOfBytes D n.val (by omega)⟩,
    wordsOfBytes_bytesOfWords⟩
  rw [length_wordsOfBytes, h]

/-! ### Any `PUSH` and `EOL` in a Direction B frame (60_exceptions.md R168) -/

/-- An open Direction B frame, whatever its rows so far. -/
def RowsOpen (v : Bool) (s : State) : Prop := ∃ Rs R, RowsTaken v Rs R s

/-- A successful end with 192 bytes out. -/
def FrameOut (s : State) : Prop := ∃ B, B.length = 192 ∧ Finished B s

theorem RowsOpen.ignoresResponse (v : Bool) : IgnoresResponse (RowsOpen v) := fun w s ⟨Rs, R, h⟩ =>
  ⟨Rs, R, RowsTaken.ignoresResponse v Rs R w s h⟩

theorem FrameOut.ignoresResponse : IgnoresResponse FrameOut := fun w s ⟨B, hB, h⟩ =>
  ⟨B, hB, Finished.ignoresResponse B w s h⟩

theorem RowsOpen.row {v : Bool} {s : State} {c : Instr} (h : RowsOpen v s) (hc : c = .eol ∨ ∃ b, c = .push b) :
    ∃ t, exec c s = .next t ∧ RowsOpen v t := by
  obtain ⟨Rs, R, h⟩ := h
  rcases hc with rfl | ⟨b, rfl⟩
  · obtain ⟨t, ht, hrow⟩ := h.eol
    exact ⟨t, ht, _, _, hrow⟩
  · obtain ⟨t, ht, hrow⟩ := h.push b
    exact ⟨t, ht, _, _, hrow⟩

theorem RowsOpen.endFrame {v : Bool} {s : State} (h : RowsOpen v s) : ∃ t, exec .endFrame s = .next t ∧ FrameOut t := by
  obtain ⟨Rs, R, h⟩ := h
  obtain ⟨t, ht, hfin⟩ := h.endFrame
  exact ⟨t, ht, _, length_encodeRows _ v, hfin⟩

theorem leads_rowsOpen (v : Bool) {cs : List Instr} (hcs : ∀ c ∈ cs, c = .eol ∨ ∃ b, c = .push b) :
    Leads (RowsOpen v) cs (RowsOpen v) := by
  have hopen := RowsOpen.ignoresResponse v
  induction cs with
  | nil => exact .nil hopen
  | cons c cs ih =>
    obtain ⟨hc, hrest⟩ := List.forall_mem_cons.mp hcs
    have hfirst : Leads (RowsOpen v) [c] (RowsOpen v) := .command hopen hopen fun _ h => h.row hc
    exact hfirst.append (ih hrest)

theorem leads_start_rowsOpen (v : Bool) : Leads Ready [.start .b v] (RowsOpen v) :=
  .command Ready.ignoresResponse (RowsOpen.ignoresResponse v) fun _ h =>
    have ⟨t, ht, hrow⟩ := exec_start_b h
    ⟨t, ht, _, _, hrow⟩

theorem leads_endFrame_frameOut (v : Bool) : Leads (RowsOpen v) [.endFrame] FrameOut :=
  .command (RowsOpen.ignoresResponse v) FrameOut.ignoresResponse fun _ => RowsOpen.endFrame

theorem frameCommand_of_row {c : Instr} (h : c = .eol ∨ ∃ b, c = .push b) : frameCommand c = true := by
  rcases h with rfl | ⟨b, rfl⟩
  · exact frameCommand_eol
  · exact frameCommand_push b

/-- Settles O58: `START`, the commands one by one, `END`; an output of `END` is an `encodeRows`. -/
theorem directionBNeverFails : Obligations.DirectionBNeverFails := by
  intro s v cs hs hp hcs
  have hrun := (leads_start_rowsOpen v).append ((leads_rowsOpen v hcs).append (leads_endFrame_frameOut v))
  have hall : cs.all frameCommand = true := List.all_eq_true.mpr fun c hc => frameCommand_of_row (hcs c hc)
  obtain ⟨t, ht, B, hB, hph, hdone, herr, hout, -, -⟩ :=
    hrun.runCommands_self (by simp [hall]) (ready_of_legalState hs hp)
  exact ⟨t, ht, hdone, hph, herr, by rw [hout, hB]⟩

end Sys2Proof.Machine
